-- ==== Sys2Proof/Word.lean ====
section
/-! DEFINITION. The words of the block: bytes, register addresses, the 32-bit result, a sample, a set of four
register bytes, and the opaque transport error. -/

namespace Sys2Proof

/-- An 8-bit value (R10). -/
abbrev Byte := BitVec 8

/-- A register address: 2 bits by type, so an address above 3 cannot be presented (R38, D25). -/
abbrev RegAddr := BitVec 2

/-- The 32-bit two's-complement result of the sample decoder (R10, `RESULT_WIDTH` of R7). -/
abbrev Int32Word := BitVec 32

/-- Three bytes in the order received, `b0` first (R10, R30). -/
structure Sample where
  b0 : Byte
  b1 : Byte
  b2 : Byte
  deriving DecidableEq, Repr, Inhabited

/-- The three bytes as the list a transaction captures, first received first (R35, R37). -/
def Sample.bytes (x : Sample) : List Byte := [x.b0, x.b1, x.b2]

/-- Four bytes at the addresses 0 to 3: the configuration registers, or a dump of them (R14, R18). -/
structure Regs where
  r0 : Byte
  r1 : Byte
  r2 : Byte
  r3 : Byte
  deriving DecidableEq, Repr, Inhabited

/-- "An opaque transport error" (R116, U3): a token with no operation; the block returns the one it received.
DESIGN CHOICE (log 17): tokens are told apart by a number that nothing inspects. -/
structure TransportError where
  token : Nat
  deriving DecidableEq, Repr, Inhabited

end Sys2Proof
end

