-- ==== Sys2Proof/Config.lean ====
section
/-! DEFINITION. The fixed parameters of R7, the open parameters of R8 as a record with the spec's defaults, and the
free values: what the LINK and EXTERNAL do where nothing scripts them. -/

namespace Sys2Proof.Config

/-- `CMD_RESET`, the reset command byte (R7, R59). -/
def cmdReset : Byte := 0x06
/-- `CMD_START`, the start/sync command byte (R7, R59). -/
def cmdStart : Byte := 0x08
/-- `CMD_WREG`, the register-write command base (R7, R59). -/
def cmdWreg : Byte := 0x40
/-- `CMD_RREG`, the register-read command base (R7, R59). -/
def cmdRreg : Byte := 0x20
/-- `DUMMY`, transmitted while a register byte is captured (R7, R59). -/
def dummy : Byte := 0xFF
/-- `T_SETTLE` in nanoseconds: the wait every primitive requests (R7, R82). -/
def tSettle : Nat := 50
/-- `T_RESET` in nanoseconds: the wait after the reset command (R7, R108). -/
def tReset : Nat := 50000
/-- `DEFAULT[0..3]`: the bytes `BEGIN` writes (R7, R108). -/
def defaultBytes : Regs := ⟨0x00, 0x04, 0x10, 0x00⟩

/-- `POST_RESET_WAIT_PLACEMENT` (R8, D15). -/
inductive Placement where
  /-- The 50 µs wait is a transaction of its own. -/
  | ownTransaction
  /-- The wait is a trailing sub-operation of the reset transaction. -/
  | trailing
  deriving DecidableEq, Repr, Inhabited

/-- Which LINK is attached: the unconstrained one of R49 or the reference responder of R50 to R56. -/
inductive LinkKind where
  | unconstrained
  | responder
  deriving DecidableEq, Repr, Inhabited

/-- The open parameters of R8. No step writes them (R25); a statement over all states holds for every setting.
`SAMPLE_ORACLE` is not here: the responder's samples are in State, any other sample is a free draw. -/
structure Params where
  /-- `LEGAL[GAIN]`. -/
  legalGain : List Byte
  /-- `LEGAL[OPERATING_MODE]`. -/
  legalOperatingMode : List Byte
  /-- `LEGAL[VREF_SELECT]`. -/
  legalVrefSelect : List Byte
  /-- `LEGAL[FIR_FILTER]`. -/
  legalFirFilter : List Byte
  /-- `LEGAL[IDAC_CURRENT]`. -/
  legalIdacCurrent : List Byte
  /-- `UNRECOGNISED_DATA_RATE_CODE`. -/
  unrecognisedDataRate : BitVec 3
  /-- `RESERVED_ROUTE_CODE`. -/
  reservedRoute : BitVec 3
  /-- `DEV_RESET[0..3]`. -/
  devReset : Regs
  /-- `EXTERNAL_INTERFERENCE`. -/
  externalInterference : Bool
  /-- `EXPOSE_PRIMITIVES`: false leaves only the controller operations except `SET_FIELD_RAW` on the CMD port (D24). -/
  exposePrimitives : Bool
  /-- `POST_RESET_WAIT_PLACEMENT`. -/
  placement : Placement
  /-- The LINK attached to the BUS port. -/
  link : LinkKind
  deriving DecidableEq, Repr

/-- The defaults of R8; the LINK is the normative, unconstrained one (R49). DESIGN CHOICE (log 1). -/
def defaultParams : Params where
  legalGain := [0, 1, 2, 3, 4, 5, 6, 7]
  legalOperatingMode := [0, 1, 2, 3]
  legalVrefSelect := [0, 1, 2, 3]
  legalFirFilter := [0, 1, 2, 3]
  legalIdacCurrent := [0, 1, 2, 3, 4, 5, 6, 7]
  unrecognisedDataRate := 7
  reservedRoute := 7
  devReset := ⟨0x00, 0x04, 0x10, 0x00⟩
  externalInterference := true
  exposePrimitives := true
  placement := .ownTransaction
  link := .unconstrained

/-! ### Free values (log 3)

Each is indexed by the counter `draws` of State; nothing in Lean can tell its value. -/

/-- What EXTERNAL writes before the transaction (R46). -/
opaque freeExternal : Nat → List (RegAddr × Byte)
/-- Whether the unconstrained LINK answers `Err(e)`, and with which `e` (R49). -/
opaque freeFault : Nat → Option TransportError
/-- The bytes the LINK captures (R30, R49). -/
opaque freeRx : Nat → Sample
/-- What a register may hold where the spec leaves its byte open (R49, R122). -/
opaque freeFar : Nat → Regs
/-- Which registers keep their old byte through a faulted reset (R122). -/
opaque freeKept : Nat → List RegAddr
/-- Whether a faulted sample read has consumed a sample (log 5). -/
opaque freePopped : Nat → Bool

end Sys2Proof.Config
end

