-- ==== Sys2Proof/Syntax.lean ====
section
/-! DEFINITION. The syntax of the block: the sixteen fields, the variants of the fifteen enumerations, the
sub-operations of a bus transaction, the transactions the ENGINE can issue, and the 34 operations. -/

namespace Sys2Proof

/-- The sixteen bit-fields of the configuration registers (R15, R62). -/
inductive Field where
  | mux | gain | pgaBypass
  | dataRate | operatingMode | conversionMode | tempSensorMode | burnoutCurrent
  | vrefSelect | firFilter | lowSideSwitch | idacCurrent
  | idac1Route | idac2Route | drdyMode | reserved0
  deriving DecidableEq, Repr

/-! ### Variants (R65)

A variant is a symbolic name for one legal code; its label is `<FIELD>_<code>`, so fields of one width share a type of
labels, `v<code>` standing for `<FIELD>_<code>`. `unrecognized` is the fallback of R66. -/

/-- `MUX_0` to `MUX_15`. -/
inductive Mux where
  | v0 | v1 | v2 | v3 | v4 | v5 | v6 | v7 | v8 | v9 | v10 | v11 | v12 | v13 | v14 | v15
  | unrecognized
  deriving DecidableEq, Repr

/-- `Factor1` to `Factor128`, `Factor<2^code>` (D10). -/
inductive Gain where
  | factor1 | factor2 | factor4 | factor8 | factor16 | factor32 | factor64 | factor128
  | unrecognized
  deriving DecidableEq, Repr

/-- The two labels of a one-bit field (D29). -/
inductive OneBit where
  | v0 | v1 | unrecognized
  deriving DecidableEq, Repr

/-- The labels of a two-bit field. -/
inductive TwoBit where
  | v0 | v1 | v2 | v3 | unrecognized
  deriving DecidableEq, Repr

/-- The labels of a three-bit field with no special code. `DATA_RATE` uses all but the unrecognised code's. -/
inductive ThreeBit where
  | v0 | v1 | v2 | v3 | v4 | v5 | v6 | v7 | unrecognized
  deriving DecidableEq, Repr

/-- The labels of a routing field: `reserved` names `RESERVED_ROUTE_CODE` in place of its number (R64, R65). -/
inductive Route where
  | v0 | v1 | v2 | v3 | v4 | v5 | v6 | v7 | reserved | unrecognized
  deriving DecidableEq, Repr

/-- A variant together with the field whose enumeration it belongs to (R65, R66). -/
inductive Variant where
  | mux (x : Mux)
  | gain (x : Gain)
  | pgaBypass (x : OneBit)
  | dataRate (x : ThreeBit)
  | operatingMode (x : TwoBit)
  | conversionMode (x : OneBit)
  | tempSensorMode (x : OneBit)
  | burnoutCurrent (x : OneBit)
  | vrefSelect (x : TwoBit)
  | firFilter (x : TwoBit)
  | lowSideSwitch (x : OneBit)
  | idacCurrent (x : ThreeBit)
  | idac1Route (x : Route)
  | idac2Route (x : Route)
  | drdyMode (x : OneBit)
  deriving DecidableEq, Repr

/-! ### Transactions (R35, R57) -/

/-- A sub-operation of a bus transaction (R35). The count of a `Transfer` is the length of what it transmits. -/
inductive SubOp where
  /-- `Wait(d)`, `d` in nanoseconds. -/
  | wait (d : Nat)
  /-- `Write(bytes)`. -/
  | write (bytes : List Byte)
  /-- `Read(n)`. -/
  | read (n : Nat)
  /-- `Transfer(tx, n)` with `n = len(tx)`. -/
  | transfer (tx : List Byte)
  deriving DecidableEq, Repr

/-- The transactions the ENGINE can issue (R57, R68). -/
inductive Frame where
  /-- Format `CW`: register write. -/
  | wreg (a : RegAddr) (v : Byte)
  /-- Format `CR`: register read. -/
  | rreg (a : RegAddr)
  /-- Format `C`: the reset command; `trailing` adds the 50 µs wait behind the byte (R108, D15). -/
  | reset (trailing : Bool)
  /-- Format `C`: start/sync. -/
  | start
  /-- Format `D3`: sample read. -/
  | sread
  /-- Format `W`: the post-reset wait of `BEGIN`. -/
  | postResetWait
  deriving DecidableEq, Repr

/-! ### The 34 operations (R2, R70) -/

/-- One constructor per row of spec/opcode_table.json. A field code operand is a byte, refused where it is wider
than its field (R71); a variant names its field, so `ENUM_ENCODE F, X` has the one operand `X`. -/
inductive Instr where
  /-- `ENCODE F, cur, c` (R71). -/
  | encode (f : Field) (cur : Byte) (c : Byte)
  /-- `EXTRACT F, v` (R72). -/
  | extract (f : Field) (v : Byte)
  /-- `DECODE0 v` (R73). -/
  | decode0 (v : Byte)
  /-- `DECODE1 v` (R74). -/
  | decode1 (v : Byte)
  /-- `DECODE2 v` (R75). -/
  | decode2 (v : Byte)
  /-- `DECODE3 v` (R76). -/
  | decode3 (v : Byte)
  /-- `ENUM_ENCODE F, X` (R77). -/
  | enumEncode (x : Variant)
  /-- `ENUM_DECODE F, c` (R78). -/
  | enumDecode (f : Field) (c : Byte)
  /-- `WREG a, v` (R84). -/
  | wreg (a : RegAddr) (v : Byte)
  /-- `RREG a` (R85). -/
  | rreg (a : RegAddr)
  /-- `RESET` (R86). -/
  | reset
  /-- `START` (R87). -/
  | start
  /-- `SREAD` (R88). -/
  | sread
  /-- `SET_MUX X` (R92). -/
  | setMux (x : Mux)
  /-- `SET_GAIN X` (R93). -/
  | setGain (x : Gain)
  /-- `SET_PGA_BYPASS X` (R94). -/
  | setPgaBypass (x : OneBit)
  /-- `SET_DATA_RATE X` (R95). -/
  | setDataRate (x : ThreeBit)
  /-- `SET_OPERATING_MODE X` (R96). -/
  | setOperatingMode (x : TwoBit)
  /-- `SET_CONVERSION_MODE X` (R97). -/
  | setConversionMode (x : OneBit)
  /-- `SET_TEMP_SENSOR_MODE X` (R98). -/
  | setTempSensorMode (x : OneBit)
  /-- `SET_BURNOUT_CURRENT X` (R99). -/
  | setBurnoutCurrent (x : OneBit)
  /-- `SET_VREF_SELECT X` (R100). -/
  | setVrefSelect (x : TwoBit)
  /-- `SET_FIR_FILTER X` (R101). -/
  | setFirFilter (x : TwoBit)
  /-- `SET_LOW_SIDE_SWITCH X` (R102). -/
  | setLowSideSwitch (x : OneBit)
  /-- `SET_IDAC_CURRENT X` (R103). -/
  | setIdacCurrent (x : ThreeBit)
  /-- `SET_IDAC1_ROUTE X` (R104). -/
  | setIdac1Route (x : Route)
  /-- `SET_IDAC2_ROUTE X` (R105). -/
  | setIdac2Route (x : Route)
  /-- `SET_DRDY_MODE X` (R106). -/
  | setDrdyMode (x : OneBit)
  /-- `SET_FIELD_RAW F, c` (R107). -/
  | setFieldRaw (f : Field) (c : Byte)
  /-- `BEGIN` (R108). -/
  | beginInit
  /-- `READ_SINGLE_SHOT` (R109). -/
  | readSingleShot
  /-- `READ_CHANNEL m` (R110). -/
  | readChannel (m : Mux)
  /-- `DUMP_REGISTERS` (R111). -/
  | dumpRegisters
  /-- `SDEC b0, b1, b2` (R112). -/
  | sdec (b0 : Byte) (b1 : Byte) (b2 : Byte)
  deriving DecidableEq, Repr

/-- What HOST presents on the CMD port: an operation by name (R70: the port has no binary encoding), or a primitive
as its command bytes, laid out as the wire carries them (DESIGN CHOICE, log 9). -/
inductive Command where
  | named (i : Instr)
  | wire (bytes : List Byte)
  deriving DecidableEq, Repr

end Sys2Proof
end

