-- ==== Sys2Proof/Machine/Operands.lean ====
section
/-! DEFINITION. The operand forms: the field descriptor table of R62, the legal code sets of R64, the code a variant
stands for and the variant a code stands for (R65, R66, R77, R78), and the placing and extracting of a field code. -/

namespace Sys2Proof.Machine

/-! ### The field descriptor table (R62) -/

/-- `reg_F`: the register that holds the field. -/
def fieldReg : Field → RegAddr
  | .mux | .gain | .pgaBypass => 0
  | .dataRate | .operatingMode | .conversionMode | .tempSensorMode | .burnoutCurrent => 1
  | .vrefSelect | .firFilter | .lowSideSwitch | .idacCurrent => 2
  | .idac1Route | .idac2Route | .drdyMode | .reserved0 => 3

/-- `w_F`: the field's width in bits. -/
def fieldWidth : Field → Nat
  | .mux => 4
  | .gain => 3
  | .pgaBypass => 1
  | .dataRate => 3
  | .operatingMode => 2
  | .conversionMode => 1
  | .tempSensorMode => 1
  | .burnoutCurrent => 1
  | .vrefSelect => 2
  | .firFilter => 2
  | .lowSideSwitch => 1
  | .idacCurrent => 3
  | .idac1Route => 3
  | .idac2Route => 3
  | .drdyMode => 1
  | .reserved0 => 1

/-- `shift_F`: the number of the field's lowest bit. -/
def fieldShift : Field → Nat
  | .mux => 4
  | .gain => 1
  | .pgaBypass => 0
  | .dataRate => 5
  | .operatingMode => 3
  | .conversionMode => 2
  | .tempSensorMode => 1
  | .burnoutCurrent => 0
  | .vrefSelect => 6
  | .firFilter => 4
  | .lowSideSwitch => 3
  | .idacCurrent => 0
  | .idac1Route => 5
  | .idac2Route => 2
  | .drdyMode => 1
  | .reserved0 => 0

/-- `mask_F = ((1 << w_F) - 1) << shift_F`, at 8 bits. -/
def fieldMask (f : Field) : Byte := ((1 <<< fieldWidth f) - 1) <<< fieldShift f

/-- Does the code fit the field's `w_F` bits (R61, R71)? -/
def codeFits (f : Field) (c : Byte) : Bool := decide (c.toNat < 2 ^ fieldWidth f)

/-- `(cur & ~mask_F) | (c << shift_F)` at 8 bits (R71). For a code that fits (`codeFits`) it leaves every bit outside the
mask, hence every other field of the register, as in `cur` (R80). -/
def encodeField (f : Field) (cur c : Byte) : Byte := (cur &&& ~~~fieldMask f) ||| (c <<< fieldShift f)

/-- `(v & mask_F) >> shift_F` (R72). -/
def extractField (f : Field) (v : Byte) : Byte := (v &&& fieldMask f) >>> fieldShift f

/-! ### Legal codes (R64) -/

/-- `c` is in `LEGAL[F]`; `RESERVED0` has no enumeration. -/
def legalCode (p : Config.Params) (f : Field) (c : Byte) : Bool :=
  codeFits f c && match f with
    | .gain => p.legalGain.contains c
    | .operatingMode => p.legalOperatingMode.contains c
    | .vrefSelect => p.legalVrefSelect.contains c
    | .firFilter => p.legalFirFilter.contains c
    | .idacCurrent => p.legalIdacCurrent.contains c
    | .dataRate => c != p.unrecognisedDataRate.setWidth 8
    | .mux | .pgaBypass | .conversionMode | .tempSensorMode | .burnoutCurrent | .lowSideSwitch
    | .idac1Route | .idac2Route | .drdyMode => true
    | .reserved0 => false

/-! ### Labels and codes (R65) -/

/-- The code in the label of a `MUX` variant. -/
def muxLabel : Mux → Option Byte
  | .v0 => some 0 | .v1 => some 1 | .v2 => some 2 | .v3 => some 3
  | .v4 => some 4 | .v5 => some 5 | .v6 => some 6 | .v7 => some 7
  | .v8 => some 8 | .v9 => some 9 | .v10 => some 10 | .v11 => some 11
  | .v12 => some 12 | .v13 => some 13 | .v14 => some 14 | .v15 => some 15
  | .unrecognized => none

/-- `Factor<2^code>` (D10). -/
def gainLabel : Gain → Option Byte
  | .factor1 => some 0 | .factor2 => some 1 | .factor4 => some 2 | .factor8 => some 3
  | .factor16 => some 4 | .factor32 => some 5 | .factor64 => some 6 | .factor128 => some 7
  | .unrecognized => none

/-- The code in the label of a one-bit field's variant. -/
def oneBitLabel : OneBit → Option Byte
  | .v0 => some 0 | .v1 => some 1 | .unrecognized => none

/-- The code in the label of a two-bit field's variant. -/
def twoBitLabel : TwoBit → Option Byte
  | .v0 => some 0 | .v1 => some 1 | .v2 => some 2 | .v3 => some 3 | .unrecognized => none

/-- The code in the label of a three-bit field's variant. -/
def threeBitLabel : ThreeBit → Option Byte
  | .v0 => some 0 | .v1 => some 1 | .v2 => some 2 | .v3 => some 3
  | .v4 => some 4 | .v5 => some 5 | .v6 => some 6 | .v7 => some 7
  | .unrecognized => none

/-- The numbered routing labels; the reserved code has the label `reserved` and no number. -/
def routeLabel (reservedCode : BitVec 3) : Route → Option Byte
  | .reserved => some (reservedCode.setWidth 8)
  | .unrecognized => none
  | .v0 => numbered 0 | .v1 => numbered 1 | .v2 => numbered 2 | .v3 => numbered 3
  | .v4 => numbered 4 | .v5 => numbered 5 | .v6 => numbered 6 | .v7 => numbered 7
where
  numbered (c : Byte) : Option Byte := if c = reservedCode.setWidth 8 then none else some c

/-- The field whose enumeration the variant belongs to. -/
def variantField : Variant → Field
  | .mux _ => .mux
  | .gain _ => .gain
  | .pgaBypass _ => .pgaBypass
  | .dataRate _ => .dataRate
  | .operatingMode _ => .operatingMode
  | .conversionMode _ => .conversionMode
  | .tempSensorMode _ => .tempSensorMode
  | .burnoutCurrent _ => .burnoutCurrent
  | .vrefSelect _ => .vrefSelect
  | .firFilter _ => .firFilter
  | .lowSideSwitch _ => .lowSideSwitch
  | .idacCurrent _ => .idacCurrent
  | .idac1Route _ => .idac1Route
  | .idac2Route _ => .idac2Route
  | .drdyMode _ => .drdyMode

/-- The code the variant's label stands for, legal or not; none for the fallback. -/
def variantLabel (p : Config.Params) : Variant → Option Byte
  | .mux x => muxLabel x
  | .gain x => gainLabel x
  | .pgaBypass x => oneBitLabel x
  | .dataRate x => threeBitLabel x
  | .operatingMode x => twoBitLabel x
  | .conversionMode x => oneBitLabel x
  | .tempSensorMode x => oneBitLabel x
  | .burnoutCurrent x => oneBitLabel x
  | .vrefSelect x => twoBitLabel x
  | .firFilter x => twoBitLabel x
  | .lowSideSwitch x => oneBitLabel x
  | .idacCurrent x => threeBitLabel x
  | .idac1Route x => routeLabel p.reservedRoute x
  | .idac2Route x => routeLabel p.reservedRoute x
  | .drdyMode x => oneBitLabel x

/-- `ENUM_ENCODE(F, X)`: "the unique c in LEGAL[F] whose variant is X" (R77); none where `X` is `Unrecognized` or a
label whose code is not in `LEGAL[F]`, which is then no variant of `F` (R65). -/
def enumEncode (p : Config.Params) (x : Variant) : Option Byte :=
  match variantLabel p x with
  | some c => if legalCode p (variantField x) c then some c else none
  | none => none

/-- The `MUX` label of a code. -/
def muxOf (c : Byte) : Mux :=
  match c.toNat with
  | 0 => .v0 | 1 => .v1 | 2 => .v2 | 3 => .v3 | 4 => .v4 | 5 => .v5 | 6 => .v6 | 7 => .v7
  | 8 => .v8 | 9 => .v9 | 10 => .v10 | 11 => .v11 | 12 => .v12 | 13 => .v13 | 14 => .v14 | 15 => .v15
  | _ => .unrecognized

/-- The `GAIN` label of a code. -/
def gainOf (c : Byte) : Gain :=
  match c.toNat with
  | 0 => .factor1 | 1 => .factor2 | 2 => .factor4 | 3 => .factor8
  | 4 => .factor16 | 5 => .factor32 | 6 => .factor64 | 7 => .factor128
  | _ => .unrecognized

/-- The label of a one-bit code. -/
def oneBitOf (c : Byte) : OneBit :=
  match c.toNat with
  | 0 => .v0 | 1 => .v1 | _ => .unrecognized

/-- The label of a two-bit code. -/
def twoBitOf (c : Byte) : TwoBit :=
  match c.toNat with
  | 0 => .v0 | 1 => .v1 | 2 => .v2 | 3 => .v3 | _ => .unrecognized

/-- The label of a three-bit code. -/
def threeBitOf (c : Byte) : ThreeBit :=
  match c.toNat with
  | 0 => .v0 | 1 => .v1 | 2 => .v2 | 3 => .v3 | 4 => .v4 | 5 => .v5 | 6 => .v6 | 7 => .v7
  | _ => .unrecognized

/-- The label of a routing code; the reserved code has a name of its own. -/
def routeOf (reservedCode : BitVec 3) (c : Byte) : Route :=
  if c = reservedCode.setWidth 8 then .reserved else
  match c.toNat with
  | 0 => .v0 | 1 => .v1 | 2 => .v2 | 3 => .v3 | 4 => .v4 | 5 => .v5 | 6 => .v6 | 7 => .v7
  | _ => .unrecognized

/-- `ENUM_DECODE(F, c)`: the variant of `c` if `c` is in `LEGAL[F]`, else `Unrecognized` (R78); none for `RESERVED0`,
which has no enumeration (R17, R76). -/
def enumDecode (p : Config.Params) (f : Field) (c : Byte) : Option Variant :=
  match f with
  | .mux => some (.mux (if legalCode p f c then muxOf c else .unrecognized))
  | .gain => some (.gain (if legalCode p f c then gainOf c else .unrecognized))
  | .pgaBypass => some (.pgaBypass (if legalCode p f c then oneBitOf c else .unrecognized))
  | .dataRate => some (.dataRate (if legalCode p f c then threeBitOf c else .unrecognized))
  | .operatingMode => some (.operatingMode (if legalCode p f c then twoBitOf c else .unrecognized))
  | .conversionMode => some (.conversionMode (if legalCode p f c then oneBitOf c else .unrecognized))
  | .tempSensorMode => some (.tempSensorMode (if legalCode p f c then oneBitOf c else .unrecognized))
  | .burnoutCurrent => some (.burnoutCurrent (if legalCode p f c then oneBitOf c else .unrecognized))
  | .vrefSelect => some (.vrefSelect (if legalCode p f c then twoBitOf c else .unrecognized))
  | .firFilter => some (.firFilter (if legalCode p f c then twoBitOf c else .unrecognized))
  | .lowSideSwitch => some (.lowSideSwitch (if legalCode p f c then oneBitOf c else .unrecognized))
  | .idacCurrent => some (.idacCurrent (if legalCode p f c then threeBitOf c else .unrecognized))
  | .idac1Route => some (.idac1Route (if legalCode p f c then routeOf p.reservedRoute c else .unrecognized))
  | .idac2Route => some (.idac2Route (if legalCode p f c then routeOf p.reservedRoute c else .unrecognized))
  | .drdyMode => some (.drdyMode (if legalCode p f c then oneBitOf c else .unrecognized))
  | .reserved0 => none

/-- `0x40 | (a << 2)` or `0x20 | (a << 2)`, computed at 8 bits (R60). -/
def commandByte (base : Byte) (a : RegAddr) : Byte := base ||| (a.setWidth 8 <<< 2)

/-! ### The records of `DECODE0..3` (R73 to R76): raw codes at their fields' widths -/

/-- The fields of register 0. -/
structure Decoded0 where
  mux : BitVec 4
  gain : BitVec 3
  pgaBypass : BitVec 1
  deriving DecidableEq, Repr

/-- The fields of register 1. -/
structure Decoded1 where
  dataRate : BitVec 3
  operatingMode : BitVec 2
  conversionMode : BitVec 1
  tempSensorMode : BitVec 1
  burnoutCurrent : BitVec 1
  deriving DecidableEq, Repr

/-- The fields of register 2. -/
structure Decoded2 where
  vrefSelect : BitVec 2
  firFilter : BitVec 2
  lowSideSwitch : BitVec 1
  idacCurrent : BitVec 3
  deriving DecidableEq, Repr

/-- The fields of register 3; `reserved0` is a raw bit with no typed view (R76, D27). -/
structure Decoded3 where
  idac1Route : BitVec 3
  idac2Route : BitVec 3
  drdyMode : BitVec 1
  reserved0 : BitVec 1
  deriving DecidableEq, Repr

/-- `DECODE0(v)` (R73). -/
def decodeReg0 (v : Byte) : Decoded0 where
  mux := v.extractLsb' 4 4
  gain := v.extractLsb' 1 3
  pgaBypass := v.extractLsb' 0 1

/-- `DECODE1(v)` (R74). -/
def decodeReg1 (v : Byte) : Decoded1 where
  dataRate := v.extractLsb' 5 3
  operatingMode := v.extractLsb' 3 2
  conversionMode := v.extractLsb' 2 1
  tempSensorMode := v.extractLsb' 1 1
  burnoutCurrent := v.extractLsb' 0 1

/-- `DECODE2(v)` (R75). -/
def decodeReg2 (v : Byte) : Decoded2 where
  vrefSelect := v.extractLsb' 6 2
  firFilter := v.extractLsb' 4 2
  lowSideSwitch := v.extractLsb' 3 1
  idacCurrent := v.extractLsb' 0 3

/-- `DECODE3(v)` (R76). -/
def decodeReg3 (v : Byte) : Decoded3 where
  idac1Route := v.extractLsb' 5 3
  idac2Route := v.extractLsb' 2 3
  drdyMode := v.extractLsb' 1 1
  reserved0 := v.extractLsb' 0 1

/-- The typed view of register 0: `ENUM_DECODE` of each component (R73), in the order of the record. -/
def typedView0 (p : Config.Params) (d : Decoded0) : List (Option Variant) :=
  [enumDecode p .mux (d.mux.setWidth 8), enumDecode p .gain (d.gain.setWidth 8),
   enumDecode p .pgaBypass (d.pgaBypass.setWidth 8)]

/-- The typed view of register 1 (R74). -/
def typedView1 (p : Config.Params) (d : Decoded1) : List (Option Variant) :=
  [enumDecode p .dataRate (d.dataRate.setWidth 8), enumDecode p .operatingMode (d.operatingMode.setWidth 8),
   enumDecode p .conversionMode (d.conversionMode.setWidth 8),
   enumDecode p .tempSensorMode (d.tempSensorMode.setWidth 8),
   enumDecode p .burnoutCurrent (d.burnoutCurrent.setWidth 8)]

/-- The typed view of register 2 (R75). -/
def typedView2 (p : Config.Params) (d : Decoded2) : List (Option Variant) :=
  [enumDecode p .vrefSelect (d.vrefSelect.setWidth 8), enumDecode p .firFilter (d.firFilter.setWidth 8),
   enumDecode p .lowSideSwitch (d.lowSideSwitch.setWidth 8), enumDecode p .idacCurrent (d.idacCurrent.setWidth 8)]

/-- The typed view of register 3; `RESERVED0` has none (R76). -/
def typedView3 (p : Config.Params) (d : Decoded3) : List (Option Variant) :=
  [enumDecode p .idac1Route (d.idac1Route.setWidth 8), enumDecode p .idac2Route (d.idac2Route.setWidth 8),
   enumDecode p .drdyMode (d.drdyMode.setWidth 8)]

/-! ### The sample decoder's arithmetic (R112, R113) -/

/-- `word32`: the three bytes as the high-order 24 bits of a 32-bit word, the low byte zero (R112). -/
def sampleWord (x : Sample) : Int32Word :=
  (x.b0.setWidth 32 <<< 24) ||| (x.b1.setWidth 32 <<< 16) ||| (x.b2.setWidth 32 <<< 8)

/-- `SDEC`: the word read as signed and shifted right arithmetically by 8 (R112). -/
def decodeSample (x : Sample) : Int32Word := (sampleWord x).sshiftRight 8

/-- `raw24 = b0 :: b1 :: b2`, held in 32 bits (R63, R113). -/
def rawSample (x : Sample) : Int32Word :=
  (x.b0.setWidth 32 <<< 16) ||| (x.b1.setWidth 32 <<< 8) ||| x.b2.setWidth 32

/-- The second form of R113: "if the top bit of the first byte is 1, OR the raw 24-bit value with 0xFF000000". -/
def decodeSampleByOr (x : Sample) : Int32Word :=
  if x.b0.msb then rawSample x ||| 0xFF000000 else rawSample x

end Sys2Proof.Machine
end

