-- ==== Sys2Proof/WellFormed.lean ====
section
/-! DEFINITION. Which operations have operands inside their types (R2, R118): the codes fit their fields, the
variants are variants of their fields, `RESERVED0` is no field of an enumeration or of a setter. It also says when a
transaction is well formed (R35). -/

namespace Sys2Proof

/-- The operand is a non-fallback variant of its field under these parameters (R65, R77). -/
def Variant.wellFormed (p : Config.Params) (x : Variant) : Bool := (Machine.enumEncode p x).isSome

/-- The field is one of the fifteen enumerated ones (R64, D27). -/
def Field.enumerated (f : Field) : Bool := f != .reserved0

/-- The operands of the operation are inside its operand types (R71, R77, R78, R107, R118). -/
def Instr.wellFormed (p : Config.Params) : Instr → Bool
  | .encode f _ c => Machine.codeFits f c
  | .extract _ _ => true
  | .decode0 _ => true
  | .decode1 _ => true
  | .decode2 _ => true
  | .decode3 _ => true
  | .enumEncode x => x.wellFormed p
  | .enumDecode f c => f.enumerated && Machine.codeFits f c
  | .wreg _ _ => true
  | .rreg _ => true
  | .reset => true
  | .start => true
  | .sread => true
  | .setMux x => (Variant.mux x).wellFormed p
  | .setGain x => (Variant.gain x).wellFormed p
  | .setPgaBypass x => (Variant.pgaBypass x).wellFormed p
  | .setDataRate x => (Variant.dataRate x).wellFormed p
  | .setOperatingMode x => (Variant.operatingMode x).wellFormed p
  | .setConversionMode x => (Variant.conversionMode x).wellFormed p
  | .setTempSensorMode x => (Variant.tempSensorMode x).wellFormed p
  | .setBurnoutCurrent x => (Variant.burnoutCurrent x).wellFormed p
  | .setVrefSelect x => (Variant.vrefSelect x).wellFormed p
  | .setFirFilter x => (Variant.firFilter x).wellFormed p
  | .setLowSideSwitch x => (Variant.lowSideSwitch x).wellFormed p
  | .setIdacCurrent x => (Variant.idacCurrent x).wellFormed p
  | .setIdac1Route x => (Variant.idac1Route x).wellFormed p
  | .setIdac2Route x => (Variant.idac2Route x).wellFormed p
  | .setDrdyMode x => (Variant.drdyMode x).wellFormed p
  | .setFieldRaw f c => f.enumerated && Machine.codeFits f c
  | .beginInit => true
  | .readSingleShot => true
  | .readChannel m => (Variant.mux m).wellFormed p
  | .dumpRegisters => true
  | .sdec _ _ _ => true

/-- The operations HOST may invoke only when `EXPOSE_PRIMITIVES` is true: the five primitives and `SET_FIELD_RAW`
(R83, R107, R118 (7)) and the nine pure function units, since with false "only the twenty controller operations except
`SET_FIELD_RAW` are on the CMD port" (D24). -/
def Instr.needsExposure : Instr → Bool
  | .wreg _ _ | .rreg _ | .reset | .start | .sread | .setFieldRaw _ _ => true
  | .encode _ _ _ | .extract _ _ | .decode0 _ | .decode1 _ | .decode2 _ | .decode3 _ | .enumEncode _
  | .enumDecode _ _ | .sdec _ _ _ => true
  | .setMux _ | .setGain _ | .setPgaBypass _ | .setDataRate _ | .setOperatingMode _
  | .setConversionMode _ | .setTempSensorMode _ | .setBurnoutCurrent _ | .setVrefSelect _ | .setFirFilter _
  | .setLowSideSwitch _ | .setIdacCurrent _ | .setIdac1Route _ | .setIdac2Route _ | .setDrdyMode _ | .beginInit
  | .readSingleShot | .readChannel _ | .dumpRegisters => false

/-- HOST may present the operation: its operands are inside their types and the parameters expose it (R118). -/
def Instr.invocable (p : Config.Params) (i : Instr) : Bool :=
  i.wellFormed p && (!i.needsExposure || p.exposePrimitives)

/-- A sub-operation has an operand R35 allows: a `Write` and a `Transfer` at least one byte, a `Read` at least one. -/
def SubOp.wellFormed : SubOp → Bool
  | .wait _ => true
  | .write bytes => !bytes.isEmpty
  | .read n => decide (1 ≤ n)
  | .transfer tx => !tx.isEmpty

/-- A transaction is a non-empty list of well-formed sub-operations (R35). -/
def xactWellFormed (xs : List SubOp) : Bool := !xs.isEmpty && xs.all SubOp.wellFormed

end Sys2Proof
end

