-- ==== Sys2Proof/Decode.lean ====
section
/-! DEFINITION. The wire encoding: the sub-operations of each transaction (R57), the normal form of a recorded
transaction (R36), the test-bench decoder of transactions (R68, R69), the decoder of command bytes (R58), and, after
them, the encoder. -/

namespace Sys2Proof

/-! ### Transactions as the ENGINE issues them -/

/-- The sub-operations of a transaction, in normal form (R57, R82, R84 to R88, R108). -/
def Frame.subOps : Frame → List SubOp
  | .wreg a v => [.wait Config.tSettle, .write [Machine.commandByte Config.cmdWreg a, v]]
  | .rreg a => [.wait Config.tSettle, .write [Machine.commandByte Config.cmdRreg a], .transfer [Config.dummy]]
  | .reset false => [.wait Config.tSettle, .write [Config.cmdReset]]
  | .reset true => [.wait Config.tSettle, .write [Config.cmdReset], .wait Config.tReset]
  | .start => [.wait Config.tSettle, .write [Config.cmdStart]]
  | .sread => [.wait Config.tSettle, .read 3]
  | .postResetWait => [.wait Config.tReset]

/-- How many bytes a sub-operation captures (R35). -/
def SubOp.captures : SubOp → Nat
  | .wait _ => 0
  | .write _ => 0
  | .read n => n
  | .transfer tx => tx.length

/-- The bytes a sub-operation transmits; what goes out during a `Read` is the transport's business (R35, N8). -/
def SubOp.transmits : SubOp → List Byte
  | .wait _ => []
  | .write bytes => bytes
  | .read _ => []
  | .transfer tx => tx

/-- How many bytes a transaction captures. -/
def xactCaptures (xs : List SubOp) : Nat := (xs.map SubOp.captures).sum

/-- The bytes a transaction transmits, in order. -/
def xactTransmits (xs : List SubOp) : List Byte := xs.flatMap SubOp.transmits

/-! ### Normal form (R36) -/

/-- Put a sub-operation in front of a list in normal form, merging adjacent `Write`s and adjacent `Wait`s. -/
def mergeFront (x : SubOp) (xs : List SubOp) : List SubOp :=
  match x, xs with
  | .wait d, .wait d' :: r => .wait (d + d') :: r
  | .write b, .write b' :: r => .write (b ++ b') :: r
  | x, xs => x :: xs

/-- The normal form of a recorded transaction. -/
def normalForm : List SubOp → List SubOp
  | [] => []
  | x :: xs => mergeFront x (normalForm xs)

/-! ### Decoding a transaction, as a test bench does (R51 to R56, R68, R69) -/

/-- Is the sub-operation a `Wait`? -/
def SubOp.isWait : SubOp → Bool
  | .wait _ => true
  | .write _ | .read _ | .transfer _ => false

/-- The mask of `WREG` and `RREG`: every bit but the address (R58). -/
def registerMask : Byte := 0xF3

/-- The mask of `RESET` and `START`: every bit (R58). -/
def wholeMask : Byte := 0xFF

/-- Does the byte match a row of the command table: pattern under mask (R58)? -/
def commandMatches (mask pattern b : Byte) : Bool := b &&& mask == pattern

/-- The register address in bits [3:2] of a command byte (R29, R58). -/
def commandAddr (b : Byte) : RegAddr := b.extractLsb' 2 2

/-- The transaction a list of sub-operations is, its `Wait`s ignored, as the reference responder reads it
(R50 to R56); none where it matches no format. R35 has no empty `Write`: one standing next to another `Write` is merged
away (R36) and the list read as if it were absent, any other makes the list match no format (DESIGN CHOICE, log 27). -/
def Frame.ofWire (xs : List SubOp) : Option Frame :=
  match normalForm (xs.filter fun x => !x.isWait) with
  | [] => if xs.isEmpty then none else some .postResetWait
  | [.read n] => if n = 3 then some .sread else none
  | [.write [b]] =>
    if b = Config.cmdReset then some (.reset false) else if b = Config.cmdStart then some .start else none
  | [.write [b, v]] => if commandMatches registerMask Config.cmdWreg b then some (.wreg (commandAddr b) v) else none
  | [.write [b], .transfer tx] =>
    if commandMatches registerMask Config.cmdRreg b && tx == [Config.dummy] then some (.rreg (commandAddr b)) else none
  | _ => none

/-- An observed normal form meets a required one: the same sub-operations, each wait not shorter (D12). -/
def meetsWaits : List SubOp → List SubOp → Bool
  | [], [] => true
  | .wait d :: xs, .wait r :: ys => decide (r ≤ d) && meetsWaits xs ys
  | x :: xs, y :: ys => !x.isWait && x == y && meetsWaits xs ys
  | _, _ => false

/-- Why a decoder rejects what it is given. -/
inductive DecodeReject where
  /-- There is no command byte. -/
  | noCommandByte
  /-- The byte is none of the ten command bytes of R59. -/
  | notACommand (b : Byte)
  /-- A register write has no value byte behind its command byte. -/
  | noValueByte
  /-- The transaction matches no format of R57 (R56, R68). -/
  | noFormat
  /-- A required wait is missing, misplaced or too short (R82, D12). -/
  | waitTooShort
  /-- Format `W`, and the reset with a trailing wait: "not an instruction of its own" (R57). -/
  | notAnInstruction
  deriving DecidableEq, Repr

/-- The format of a transaction, its waits checked (R57, R69). -/
def Frame.decode (xs : List SubOp) : Except DecodeReject Frame :=
  match Frame.ofWire xs with
  | none => .error .noFormat
  | some f =>
    if meetsWaits (normalForm xs) f.subOps then .ok f
    else if f = .reset false && meetsWaits (normalForm xs) (Frame.reset true).subOps then .ok (.reset true)
    else .error .waitTooShort

/-- The primitive a transaction is (R57: each of the five is one instruction of the wire-level instruction set). -/
def Frame.instr : Frame → Except DecodeReject Instr
  | .wreg a v => .ok (.wreg a v)
  | .rreg a => .ok (.rreg a)
  | .reset false => .ok .reset
  | .reset true => .error .notAnInstruction
  | .start => .ok .start
  | .sread => .ok .sread
  | .postResetWait => .error .notAnInstruction

/-- The primitive instruction a transaction encodes. -/
def decodeTransaction (xs : List SubOp) : Except DecodeReject Instr :=
  match Frame.decode xs with
  | .ok f => f.instr
  | .error r => .error r

/-! ### Decoding command bytes (R58, opcode_table.json) -/

/-- The primitive at the front of the bytes, and the bytes behind it. A register write takes its value byte; the
dummy of a register read is sent by the ENGINE and is no part of the operation (log 18). -/
def decode : List Byte → Except DecodeReject (Instr × List Byte)
  | [] => .error .noCommandByte
  | b :: rest =>
    if commandMatches wholeMask Config.cmdReset b then .ok (.reset, rest)
    else if commandMatches wholeMask Config.cmdStart b then .ok (.start, rest)
    else if commandMatches registerMask Config.cmdRreg b then .ok (.rreg (commandAddr b), rest)
    else if commandMatches registerMask Config.cmdWreg b then
      match rest with
      | v :: rest' => .ok (.wreg (commandAddr b) v, rest')
      | [] => .error .noValueByte
    else .error (.notACommand b)

/-- What HOST presents, decoded: a named operation is itself, command bytes are read by `decode` (log 9). -/
def fetchCommand : Command → Except DecodeReject Instr
  | .named i => .ok i
  | .wire bytes =>
    match decode bytes with
    | .ok (i, _) => .ok i
    | .error r => .error r

/-- The bytes of a table word: bit 0 is the least significant bit of the first byte; bits from `nbits` up are zero;
as many bytes as the longest command has. -/
def wordBytes (nbits w : Nat) : List Byte :=
  [BitVec.ofNat 8 (w % 2 ^ nbits), BitVec.ofNat 8 (w % 2 ^ nbits / 256)]

/-- The instruction the decoder reads from a word numbered as spec/opcode_table.json numbers it. -/
def decodeTableWord (nbits w : Nat) : Option Instr :=
  match decode (wordBytes nbits w) with
  | .ok (i, _) => some i
  | .error _ => none

/-! ### Encoding -/

/-- The command bytes of an operation; none for the operations with no command byte (R57, R58, R70). -/
def encode : Instr → Option (List Byte)
  | .wreg a v => some [Machine.commandByte Config.cmdWreg a, v]
  | .rreg a => some [Machine.commandByte Config.cmdRreg a]
  | .reset => some [Config.cmdReset]
  | .start => some [Config.cmdStart]
  | .sread => none
  | .encode _ _ _ | .extract _ _ | .decode0 _ | .decode1 _ | .decode2 _ | .decode3 _ | .enumEncode _
  | .enumDecode _ _ | .setMux _ | .setGain _ | .setPgaBypass _ | .setDataRate _ | .setOperatingMode _
  | .setConversionMode _ | .setTempSensorMode _ | .setBurnoutCurrent _ | .setVrefSelect _ | .setFirFilter _
  | .setLowSideSwitch _ | .setIdacCurrent _ | .setIdac1Route _ | .setIdac2Route _ | .setDrdyMode _
  | .setFieldRaw _ _ | .beginInit | .readSingleShot | .readChannel _ | .dumpRegisters | .sdec _ _ _ => none

/-- The transaction of a primitive (R84 to R88); none for the other operations. -/
def encodeTransaction : Instr → Option (List SubOp)
  | .wreg a v => some (Frame.wreg a v).subOps
  | .rreg a => some (Frame.rreg a).subOps
  | .reset => some (Frame.reset false).subOps
  | .start => some Frame.start.subOps
  | .sread => some Frame.sread.subOps
  | .encode _ _ _ | .extract _ _ | .decode0 _ | .decode1 _ | .decode2 _ | .decode3 _ | .enumEncode _
  | .enumDecode _ _ | .setMux _ | .setGain _ | .setPgaBypass _ | .setDataRate _ | .setOperatingMode _
  | .setConversionMode _ | .setTempSensorMode _ | .setBurnoutCurrent _ | .setVrefSelect _ | .setFirFilter _
  | .setLowSideSwitch _ | .setIdacCurrent _ | .setIdac1Route _ | .setIdac2Route _ | .setDrdyMode _
  | .setFieldRaw _ _ | .beginInit | .readSingleShot | .readChannel _ | .dumpRegisters | .sdec _ _ _ => none

end Sys2Proof
end

