-- ==== Sys2Proof/Machine/State.lean ====
section
/-! DEFINITION. The state of the block, its LINK and its ports, as plain data; the ways a step can stop; the state
right after construction (R27). -/

namespace Sys2Proof.Machine

/-! ### What the environment does at one transaction (R13, R46, R49, R122) -/

/-- The choices of LINK and EXTERNAL at one transaction (log 3). Which of them matter depends on the transaction, on
its outcome and on the LINK attached. -/
structure Turn where
  /-- EXTERNAL's writes to `CFG` before the transaction, in order: "any number of times" (R46). -/
  external : List (RegAddr × Byte)
  /-- The transport error, if the transaction fails (R35). -/
  fault : Option TransportError
  /-- The bytes the LINK delivers where they are its free choice: the first `n` of them for a transaction that
  captures `n` (R30, R49). -/
  rx : Sample
  /-- The byte at address `a` is what `CFG[a]` comes to hold where the spec leaves that open (R49, R122). -/
  far : Regs
  /-- The registers that keep their old byte through a faulted reset (R122). -/
  kept : List RegAddr
  /-- A faulted sample read has consumed a sample of the stream (log 5). -/
  popped : Bool
  deriving DecidableEq, Repr, Inhabited

/-! ### Values and outcomes -/

/-- What an operation returns with `Ok` (R70). -/
inductive Value where
  /-- Nothing. -/
  | none
  /-- A byte: `ENCODE`, `RREG`. -/
  | byte (b : Byte)
  /-- A field code: `EXTRACT`, `ENUM_ENCODE`. -/
  | code (c : Byte)
  /-- The record of `DECODE0`. -/
  | decoded0 (d : Decoded0)
  /-- The record of `DECODE1`. -/
  | decoded1 (d : Decoded1)
  /-- The record of `DECODE2`. -/
  | decoded2 (d : Decoded2)
  /-- The record of `DECODE3`. -/
  | decoded3 (d : Decoded3)
  /-- A variant: `ENUM_DECODE`. -/
  | variant (x : Variant)
  /-- A signed 32-bit integer, as its pattern: `SDEC`, `READ_SINGLE_SHOT`, `READ_CHANNEL`. -/
  | int32 (v : Int32Word)
  /-- Three bytes: `SREAD`. -/
  | sample (x : Sample)
  /-- Four bytes in address order: `DUMP_REGISTERS`. -/
  | dump (x : Regs)
  deriving DecidableEq, Repr

/-- What the CMD port presents to HOST when an operation completes (D2). -/
inductive Response where
  | ok (v : Value)
  | err (e : TransportError)
  deriving DecidableEq, Repr

/-- `STATUS`, the outcome of the most recent operation with bus traffic (R20). -/
inductive Status where
  | ok
  | fault (e : TransportError)
  deriving DecidableEq, Repr

/-- `LIFE`, the ghost flag of R22. -/
inductive Life where
  | constructed
  | begun
  deriving DecidableEq, Repr

/-- `SEQ`, the position of the sequencer (R21). -/
inductive Seq where
  | idle
  /-- The operation in progress and the index of its next transaction. -/
  | busy (op : Instr) (k : Nat)
  deriving DecidableEq, Repr

/-- One transaction in `TRACE`: its sub-operations, the bytes captured, its outcome (R23). -/
structure TraceEntry where
  subOps : List SubOp
  captured : List Byte
  error : Option TransportError
  deriving DecidableEq, Repr

/-! ### How a step can stop -/

/-- The faults of the model. The block's one exception, `TransportFault` (R116), is not among them: it is taken and
ends in a next state (R121). -/
inductive Fault where
  /-- Raised by `resume` in a state whose `SEQ` index is not below the length of the operation's expansion. R21 says
  `0 <= k < len(op)`, so no run reaches such a state. Safe (log 20). -/
  | sequencerOutOfRange
  deriving DecidableEq, Repr

/-- The refusals of the model: inputs outside the operations' types (R118). Each is safe: "Each refusal errs toward
unprovable." -/
inductive Refusal where
  /-- Raised by `exec` for an instruction that has no meaning yet. Safe. -/
  | notModelled (mnemonic : String)
  /-- Raised by every operation invoked while `SEQ` is not `IDLE` (R118 (5), R21). Safe. -/
  | busy
  /-- Raised by `ENCODE`, `ENUM_DECODE` and `SET_FIELD_RAW` for a field code wider than the field (R118 (2)). Safe. -/
  | codeTooWide
  /-- Raised by `ENUM_ENCODE`, the typed setters and `READ_CHANNEL` for `Unrecognized` (R118 (3)) and for a label that
  is no variant of the field because its code is not in `LEGAL[F]` (R65, log 16). Safe. -/
  | notAVariant
  /-- Raised by `SET_FIELD_RAW` (R118 (4)) and `ENUM_DECODE` (R78, log 15) for `RESERVED0`. Safe. -/
  | reservedField
  /-- Raised by the primitives and `SET_FIELD_RAW` (R118 (7)) and by the pure function units (D24) when
  `EXPOSE_PRIMITIVES` is false. Safe. -/
  | notExposed
  /-- Raised by `step` for command bytes that encode no primitive (R68, R118 (6)). Safe. -/
  | undecodable (r : DecodeReject)
  deriving DecidableEq, Repr

/-! ### The state -/

/-- Everything the spec gives the machine, and the model's ports. -/
structure State where
  /-- `SEQ` (R21). -/
  seq : Seq
  /-- `LIFE` (R22). -/
  life : Life
  /-- `STATUS` (R20). -/
  status : Status
  /-- `TMP` (R18). -/
  tmp : Byte
  /-- `RXBUF[0..2]` (R18). -/
  rxbuf : Sample
  /-- `RESULT` (R18). -/
  result : Int32Word
  /-- `DUMP[0..3]` (R18). -/
  dump : Regs
  /-- `RBYTE` (R18). -/
  rbyte : Byte
  /-- `TRACE`, oldest transaction first (R23). -/
  trace : List TraceEntry
  /-- `CFG[0..3]`, held by the converter (R14). -/
  cfg : Regs
  /-- The samples the reference responder will deliver, next one first (R50, R55). -/
  samples : List Sample
  /-- The parameters of the step relation (R8, R25); no step writes them. -/
  params : Config.Params
  /-- What HOST is going to present on the CMD port, next one first (D2). -/
  cmd : List Command
  /-- What the CMD port last presented to HOST; none before the first operation (D2). -/
  response : Option Response
  /-- The environment's choices for the coming transactions, next one first (log 3). -/
  script : List Turn
  /-- The index of the next free choice, once `script` is empty (log 3). -/
  draws : Nat
  deriving DecidableEq, Repr

/-- The state after construction (R27, R133), before HOST presents anything. `SEQ`, `LIFE` and `TRACE` are the
spec's; every other register's value is named in log 6, `CFG`'s in log 7, the ports' in log 8. -/
def State.reset : State where
  seq := .idle
  life := .constructed
  status := .ok
  tmp := 0
  rxbuf := ⟨0, 0, 0⟩
  result := 0
  dump := ⟨0, 0, 0, 0⟩
  rbyte := 0
  trace := []
  cfg := Config.defaultParams.devReset
  samples := []
  params := Config.defaultParams
  cmd := []
  response := none
  script := []
  draws := 0

end Sys2Proof.Machine
end

