-- ==== Sys2Proof/Machine/Flags.lean ====
section
/-! DEFINITION. The block's flags: `STATUS`, the only status flag (R20), and the ghost flag `LIFE` (R22). There are no
condition codes. -/

namespace Sys2Proof.Machine

/-- `STATUS <- Ok`, at the end of an operation whose transactions all succeeded (R20). -/
def setStatusOk (s : State) : State := { s with status := .ok }

/-- `STATUS <- Fault(e)`, at the first transaction that returned `Err(e)` (R20, R121). -/
def setStatusFault (e : TransportError) (s : State) : State := { s with status := .fault e }

/-- `LIFE <- BEGUN`, when `BEGIN` completes with `Ok` (R22, R108). -/
def setLifeBegun (s : State) : State := { s with life := .begun }

end Sys2Proof.Machine
end

