-- ==== Sys2Proof/Machine/Ops.lean ====
section
/-! DEFINITION. The shared operations: the configuration registers' accessors, EXTERNAL's steps, what the LINK answers
(R49 to R56, R122), issuing one transaction, taking the transport fault (R121), completing an operation, and the
sequencer that runs an expansion (R21, R89). -/

namespace Sys2Proof.Machine

/-! ### The configuration registers -/

/-- Read the byte at an address (R29). -/
def readReg (r : Regs) (a : RegAddr) : Byte :=
  if a = 0 then r.r0 else if a = 1 then r.r1 else if a = 2 then r.r2 else r.r3

/-- Write the byte at an address; the other three are unchanged (R29, R40). -/
def writeReg (r : Regs) (a : RegAddr) (v : Byte) : Regs :=
  if a = 0 then { r with r0 := v }
  else if a = 1 then { r with r1 := v }
  else if a = 2 then { r with r2 := v }
  else { r with r3 := v }

/-! ### EXTERNAL (R46) -/

/-- EXTERNAL's writes, in order. -/
def externalWrites (cfg : Regs) : List (RegAddr × Byte) → Regs
  | [] => cfg
  | (a, v) :: rest => externalWrites (writeReg cfg a v) rest

/-- `CFG` as the transaction finds it: EXTERNAL acts before it when `EXTERNAL_INTERFERENCE` is enabled. -/
def afterExternal (p : Config.Params) (t : Turn) (cfg : Regs) : Regs :=
  if p.externalInterference then externalWrites cfg t.external else cfg

/-! ### The LINK -/

/-- A LINK's answer to one transaction, and the far end after it. -/
structure Reply where
  error : Option TransportError
  rx : List Byte
  cfg : Regs
  samples : List Sample
  deriving DecidableEq, Repr

/-- The far end after a faulted reset: each register its old byte or `DEV_RESET` (R122). -/
def faultedReset (p : Config.Params) (t : Turn) (cfg : Regs) : Regs :=
  let byteAt (a : RegAddr) := if t.kept.contains a then readReg cfg a else readReg p.devReset a
  ⟨byteAt 0, byteAt 1, byteAt 2, byteAt 3⟩

/-- A transaction that returns `Err(e)`: nothing is captured, and the far end is as R122 says. -/
def faultedReply (p : Config.Params) (t : Turn) (f : Frame) (cfg : Regs) (samples : List Sample)
    (e : TransportError) : Reply :=
  match f with
  | .wreg a _ => ⟨some e, [], writeReg cfg a (readReg t.far a), samples⟩
  | .reset _ => ⟨some e, [], faultedReset p t cfg, samples⟩
  | .sread => ⟨some e, [], cfg, if t.popped then samples.tail else samples⟩
  | .rreg _ => ⟨some e, [], cfg, samples⟩
  | .start => ⟨some e, [], cfg, samples⟩
  | .postResetWait => ⟨some e, [], cfg, samples⟩

/-- The unconstrained LINK's `Ok`: any bytes of the right count (R49); nothing is known of a register it has written
or reset (R26, log 2). -/
def unconstrainedReply (t : Turn) (f : Frame) (cfg : Regs) (samples : List Sample) : Reply :=
  match f with
  | .wreg a _ => ⟨none, [], writeReg cfg a (readReg t.far a), samples⟩
  | .rreg _ => ⟨none, [t.rx.b0], cfg, samples⟩
  | .reset _ => ⟨none, [], t.far, samples⟩
  | .start => ⟨none, [], cfg, samples⟩
  | .sread => ⟨none, t.rx.bytes, cfg, samples⟩
  | .postResetWait => ⟨none, [], cfg, samples⟩

/-- The reference responder's `Ok` (R51 to R56). A sample read past the end of the stream is a free draw (R30). -/
def responderReply (p : Config.Params) (t : Turn) (f : Frame) (cfg : Regs) (samples : List Sample) : Reply :=
  match f with
  | .wreg a v => ⟨none, [], writeReg cfg a v, samples⟩
  | .rreg a => ⟨none, [readReg cfg a], cfg, samples⟩
  | .reset _ => ⟨none, [], p.devReset, samples⟩
  | .start => ⟨none, [], cfg, samples⟩
  | .sread =>
    match samples with
    | x :: rest => ⟨none, x.bytes, cfg, rest⟩
    | [] => ⟨none, t.rx.bytes, cfg, []⟩
  | .postResetWait => ⟨none, [], cfg, samples⟩

/-- What the LINK attached answers to the transaction. -/
def linkReply (p : Config.Params) (t : Turn) (f : Frame) (cfg : Regs) (samples : List Sample) : Reply :=
  match t.fault with
  | some e => faultedReply p t f cfg samples e
  | none =>
    match p.link with
    | .unconstrained => unconstrainedReply t f cfg samples
    | .responder => responderReply p t f cfg samples

/-- The reference responder presented with any transaction at all: it refuses one that matches no format
(R56, R68, R118 (6)). What it makes of an empty `Write` is the model's choice (log 27). -/
def respond (p : Config.Params) (t : Turn) (xs : List SubOp) (cfg : Regs) (samples : List Sample) : Option Reply :=
  (Frame.ofWire xs).map fun f => responderReply p t f cfg samples

/-! ### The environment's choices -/

/-- The choices at the next transaction: the script's, or free ones. Unscripted, the reference responder "never
returns `Err`" (R50). -/
def currentTurn (s : State) : Turn :=
  match s.script with
  | t :: _ => t
  | [] =>
    { external := Config.freeExternal s.draws
      fault := match s.params.link with
        | .unconstrained => Config.freeFault s.draws
        | .responder => none
      rx := Config.freeRx s.draws
      far := Config.freeFar s.draws
      kept := Config.freeKept s.draws
      popped := Config.freePopped s.draws }

/-- The choices are used up. -/
def consumeTurn (s : State) : State :=
  match s.script with
  | _ :: rest => { s with script := rest }
  | [] => { s with draws := s.draws + 1 }

/-! ### One transaction (R35, R83) -/

/-- The LINK's answer to the transaction the ENGINE issues now. -/
def replyTo (f : Frame) (s : State) : Reply :=
  linkReply s.params (currentTurn s) f (afterExternal s.params (currentTurn s) s.cfg) s.samples

/-- The transaction as `TRACE` records it (R23). -/
def entryOf (f : Frame) (r : Reply) : TraceEntry := ⟨f.subOps, r.rx, r.error⟩

/-- `Xact`: EXTERNAL's steps before it, the LINK's exchange, and the new last entry of `TRACE`. -/
def issue (f : Frame) (s : State) : State :=
  let s' := consumeTurn s
  { s' with
    cfg := (replyTo f s).cfg
    samples := (replyTo f s).samples
    trace := s.trace ++ [entryOf f (replyTo f s)] }

/-! ### Taking the exception, and completing -/

/-- `raise TransportFault(e)` (R121): `STATUS <- Fault(e)`, `SEQ <- IDLE`, the operation returns `Err(e)`; nothing is
rolled back and `LIFE` is unchanged. There is no handler to enter and none to return from (R123): the next operation
starts at its own step 0. -/
def raiseTransportFault (e : TransportError) (s : State) : State :=
  { setStatusFault e s with seq := .idle, response := some (.err e) }

/-- What an operation does when its last transaction has returned `Ok`, and the value it returns. -/
inductive Finish where
  /-- `return Ok`. -/
  | nothing
  /-- `BEGIN`: `LIFE <- BEGUN`, `return Ok` (R108). -/
  | begun
  /-- `RREG`: `return Ok(d)`, held in `RBYTE` (R85). -/
  | rbyte
  /-- `SREAD`: the three bytes, held in `RXBUF` (R88). -/
  | sample
  /-- `READ_SINGLE_SHOT`, `READ_CHANNEL`: `RESULT <- SDEC(RXBUF)`, `return Ok(RESULT)` (R109, R110). -/
  | result
  /-- `DUMP_REGISTERS`: `return Ok([DUMP[0], ..., DUMP[3]])` (R111). -/
  | dump
  deriving DecidableEq, Repr

/-- The pure computation and the flag an operation ends with. -/
def finishEffect (fin : Finish) (s : State) : State :=
  match fin with
  | .begun => setLifeBegun s
  | .result => { s with result := decodeSample s.rxbuf }
  | .nothing => s
  | .rbyte => s
  | .sample => s
  | .dump => s

/-- The value presented with `Ok`. -/
def finishValue (fin : Finish) (s : State) : Value :=
  match fin with
  | .nothing => .none
  | .begun => .none
  | .rbyte => .byte s.rbyte
  | .sample => .sample s.rxbuf
  | .result => .int32 s.result
  | .dump => .dump s.dump

/-- The operation completes with `Ok`: its last computation, `STATUS <- Ok`, `SEQ <- IDLE`, the value on the CMD port
(R20, R21, R89). -/
def complete (fin : Finish) (s : State) : State :=
  let s' := setStatusOk (finishEffect fin s)
  { s' with seq := .idle, response := some (.ok (finishValue fin s')) }

/-! ### Expansions (R21, R89) -/

/-- One transaction of an expansion, and what becomes of the byte or bytes it captures. -/
inductive Phase where
  /-- A transaction that captures nothing: `RESET`, `START`, the wait, a `WREG` of a given byte. -/
  | command (f : Frame)
  /-- `RMW` step 0: `d <- RREG reg_F; TMP <- d; TMP <- ENCODE(F, TMP, c)` (R91). -/
  | readModify (f : Field) (c : Byte)
  /-- `RMW` step 1: `WREG a, TMP` (R91). -/
  | writeBack (a : RegAddr)
  /-- `RREG` invoked by HOST: `RBYTE <- d` (R85, log 11). -/
  | readByte (a : RegAddr)
  /-- `SREAD`: `RXBUF[i] <- b_i` (R88). -/
  | readSample
  /-- `DUMP[a] <- RREG a` (R111). -/
  | readDump (a : RegAddr)
  deriving DecidableEq, Repr

/-- The transaction the phase issues in a state. -/
def Phase.frame (ph : Phase) (s : State) : Frame :=
  match ph with
  | .command f => f
  | .readModify f _ => .rreg (fieldReg f)
  | .writeBack a => .wreg a s.tmp
  | .readByte a => .rreg a
  | .readSample => .sread
  | .readDump a => .rreg a

/-- Where the captured bytes go. -/
def Phase.capture (ph : Phase) (rx : List Byte) (s : State) : State :=
  match ph, rx with
  | .readModify f c, [d] => { s with tmp := encodeField f d c }
  | .readByte _, [d] => { s with rbyte := d }
  | .readSample, [b0, b1, b2] => { s with rxbuf := ⟨b0, b1, b2⟩ }
  | .readDump a, [d] => { s with dump := writeReg s.dump a d }
  | _, _ => s

/-- The expansion of an operation: its transactions in order, and how it ends. -/
structure Plan where
  phases : List Phase
  finish : Finish
  deriving DecidableEq, Repr

/-- One transaction of the operation `i` at index `k`: on `Err(e)` the abort, on `Ok` the advance of `SEQ` or, at the
last transaction, the completion (R21, R90). -/
def advance (i : Instr) (pl : Plan) (k : Nat) (ph : Phase) (s : State) : State :=
  let r := replyTo (ph.frame s) s
  let s' := issue (ph.frame s) s
  match r.error with
  | some e => raiseTransportFault e s'
  | none =>
    if k + 1 < pl.phases.length then { ph.capture r.rx s' with seq := .busy i (k + 1) }
    else complete pl.finish (ph.capture r.rx s')

/-- The transactions from index `k` on, until the sequencer is `IDLE` again. -/
def runPhases (i : Instr) (pl : Plan) : Nat → List Phase → State → State
  | _, [], s => s
  | k, ph :: rest, s =>
    let s' := advance i pl k ph s
    match s'.seq with
    | .idle => s'
    | .busy _ _ => runPhases i pl (k + 1) rest s'

/-- What HOST may ask for only when `EXPOSE_PRIMITIVES` is true: a plan or a value (R83, R107, D24). -/
def exposed {α : Type} (p : Config.Params) (x : Except Refusal α) : Except Refusal α :=
  if p.exposePrimitives then x else .error .notExposed

/-- HOST invokes the operation: `SEQ <- (op, 0)` (R21). -/
def invoke (i : Instr) (s : State) : State := { s with seq := .busy i 0 }

/-- An operation with bus traffic: refused while `SEQ` is not `IDLE` (R118 (5)) or where its operands are outside
their types; otherwise its expansion, from invocation to completion or abort. -/
def perform (i : Instr) (plan : Except Refusal Plan) (s : State) : Host.Outcome State Fault Refusal :=
  match s.seq with
  | .busy _ _ => .refused .busy
  | .idle =>
    match plan with
    | .error r => .refused r
    | .ok pl => .next (runPhases i pl 0 pl.phases (invoke i s))

/-- A pure function unit: the value on the CMD port, no state of the ENGINE written, no bus traffic (R20, log 19). It is
on the CMD port when `EXPOSE_PRIMITIVES` is true: "with false, only the twenty controller operations except
`SET_FIELD_RAW` are on the CMD port" (D24). -/
def present (v : Except Refusal Value) (s : State) : Host.Outcome State Fault Refusal :=
  match s.seq with
  | .busy _ _ => .refused .busy
  | .idle =>
    match exposed s.params v with
    | .error r => .refused r
    | .ok v => .next { s with response := some (.ok v) }

/-! ### Operand checks (R118) -/

/-- A field code of exactly `w_F` bits, or a refusal (R71, D11). -/
def checkedCode (f : Field) (c : Byte) : Except Refusal Byte :=
  if codeFits f c then .ok c else .error .codeTooWide

/-- One of the fifteen enumerated fields, or a refusal (D27). -/
def checkedField (f : Field) : Except Refusal Field :=
  if f.enumerated then .ok f else .error .reservedField

/-- The code of a variant, or a refusal (R77, D8). -/
def checkedVariant (p : Config.Params) (x : Variant) : Except Refusal Byte :=
  match enumEncode p x with
  | some c => .ok c
  | none => .error .notAVariant

/-- `RMW(F, c)` (R91): the two transactions of every setter. -/
def readModifyWrite (f : Field) (c : Byte) : List Phase := [.readModify f c, .writeBack (fieldReg f)]

/-- A typed setter: `RMW(F, ENUM_ENCODE(F, X))` (R92 to R106). -/
def typedSetter (p : Config.Params) (x : Variant) : Except Refusal Plan :=
  match checkedVariant p x with
  | .ok c => .ok ⟨readModifyWrite (variantField x) c, .nothing⟩
  | .error r => .error r

end Sys2Proof.Machine
end

