-- ==== Sys2Proof/Machine/DeviceController.lean ====
section
/-! DEFINITION. The device controller, R89 to R111: the fifteen typed setters, the raw setter, `BEGIN`, `READ_SINGLE_SHOT`,
`READ_CHANNEL` and `DUMP_REGISTERS`, each a fixed straight-line expansion. -/

namespace Sys2Proof.Machine

/-- The expansion of `SET_MUX X` (R92). -/
def planSetMux (p : Config.Params) (x : Mux) : Except Refusal Plan := typedSetter p (.mux x)

/-- `SET_MUX X` (R92). -/
def execSetMux (x : Mux) (s : State) : Host.Outcome State Fault Refusal :=
  perform (.setMux x) (planSetMux s.params x) s

/-- The expansion of `SET_GAIN X` (R93). -/
def planSetGain (p : Config.Params) (x : Gain) : Except Refusal Plan := typedSetter p (.gain x)

/-- `SET_GAIN X` (R93). -/
def execSetGain (x : Gain) (s : State) : Host.Outcome State Fault Refusal :=
  perform (.setGain x) (planSetGain s.params x) s

/-- The expansion of `SET_PGA_BYPASS X` (R94). -/
def planSetPgaBypass (p : Config.Params) (x : OneBit) : Except Refusal Plan := typedSetter p (.pgaBypass x)

/-- `SET_PGA_BYPASS X` (R94). -/
def execSetPgaBypass (x : OneBit) (s : State) : Host.Outcome State Fault Refusal :=
  perform (.setPgaBypass x) (planSetPgaBypass s.params x) s

/-- The expansion of `SET_DATA_RATE X` (R95). -/
def planSetDataRate (p : Config.Params) (x : ThreeBit) : Except Refusal Plan := typedSetter p (.dataRate x)

/-- `SET_DATA_RATE X` (R95). -/
def execSetDataRate (x : ThreeBit) (s : State) : Host.Outcome State Fault Refusal :=
  perform (.setDataRate x) (planSetDataRate s.params x) s

/-- The expansion of `SET_OPERATING_MODE X` (R96). -/
def planSetOperatingMode (p : Config.Params) (x : TwoBit) : Except Refusal Plan := typedSetter p (.operatingMode x)

/-- `SET_OPERATING_MODE X` (R96). -/
def execSetOperatingMode (x : TwoBit) (s : State) : Host.Outcome State Fault Refusal :=
  perform (.setOperatingMode x) (planSetOperatingMode s.params x) s

/-- The expansion of `SET_CONVERSION_MODE X` (R97). -/
def planSetConversionMode (p : Config.Params) (x : OneBit) : Except Refusal Plan := typedSetter p (.conversionMode x)

/-- `SET_CONVERSION_MODE X` (R97). -/
def execSetConversionMode (x : OneBit) (s : State) : Host.Outcome State Fault Refusal :=
  perform (.setConversionMode x) (planSetConversionMode s.params x) s

/-- The expansion of `SET_TEMP_SENSOR_MODE X` (R98). -/
def planSetTempSensorMode (p : Config.Params) (x : OneBit) : Except Refusal Plan := typedSetter p (.tempSensorMode x)

/-- `SET_TEMP_SENSOR_MODE X` (R98). -/
def execSetTempSensorMode (x : OneBit) (s : State) : Host.Outcome State Fault Refusal :=
  perform (.setTempSensorMode x) (planSetTempSensorMode s.params x) s

/-- The expansion of `SET_BURNOUT_CURRENT X` (R99). -/
def planSetBurnoutCurrent (p : Config.Params) (x : OneBit) : Except Refusal Plan := typedSetter p (.burnoutCurrent x)

/-- `SET_BURNOUT_CURRENT X` (R99). -/
def execSetBurnoutCurrent (x : OneBit) (s : State) : Host.Outcome State Fault Refusal :=
  perform (.setBurnoutCurrent x) (planSetBurnoutCurrent s.params x) s

/-- The expansion of `SET_VREF_SELECT X` (R100). -/
def planSetVrefSelect (p : Config.Params) (x : TwoBit) : Except Refusal Plan := typedSetter p (.vrefSelect x)

/-- `SET_VREF_SELECT X` (R100). -/
def execSetVrefSelect (x : TwoBit) (s : State) : Host.Outcome State Fault Refusal :=
  perform (.setVrefSelect x) (planSetVrefSelect s.params x) s

/-- The expansion of `SET_FIR_FILTER X` (R101). -/
def planSetFirFilter (p : Config.Params) (x : TwoBit) : Except Refusal Plan := typedSetter p (.firFilter x)

/-- `SET_FIR_FILTER X` (R101). -/
def execSetFirFilter (x : TwoBit) (s : State) : Host.Outcome State Fault Refusal :=
  perform (.setFirFilter x) (planSetFirFilter s.params x) s

/-- The expansion of `SET_LOW_SIDE_SWITCH X` (R102). -/
def planSetLowSideSwitch (p : Config.Params) (x : OneBit) : Except Refusal Plan := typedSetter p (.lowSideSwitch x)

/-- `SET_LOW_SIDE_SWITCH X` (R102). -/
def execSetLowSideSwitch (x : OneBit) (s : State) : Host.Outcome State Fault Refusal :=
  perform (.setLowSideSwitch x) (planSetLowSideSwitch s.params x) s

/-- The expansion of `SET_IDAC_CURRENT X` (R103). -/
def planSetIdacCurrent (p : Config.Params) (x : ThreeBit) : Except Refusal Plan := typedSetter p (.idacCurrent x)

/-- `SET_IDAC_CURRENT X` (R103). -/
def execSetIdacCurrent (x : ThreeBit) (s : State) : Host.Outcome State Fault Refusal :=
  perform (.setIdacCurrent x) (planSetIdacCurrent s.params x) s

/-- The expansion of `SET_IDAC1_ROUTE X` (R104). -/
def planSetIdac1Route (p : Config.Params) (x : Route) : Except Refusal Plan := typedSetter p (.idac1Route x)

/-- `SET_IDAC1_ROUTE X` (R104). -/
def execSetIdac1Route (x : Route) (s : State) : Host.Outcome State Fault Refusal :=
  perform (.setIdac1Route x) (planSetIdac1Route s.params x) s

/-- The expansion of `SET_IDAC2_ROUTE X` (R105). -/
def planSetIdac2Route (p : Config.Params) (x : Route) : Except Refusal Plan := typedSetter p (.idac2Route x)

/-- `SET_IDAC2_ROUTE X` (R105). -/
def execSetIdac2Route (x : Route) (s : State) : Host.Outcome State Fault Refusal :=
  perform (.setIdac2Route x) (planSetIdac2Route s.params x) s

/-- The expansion of `SET_DRDY_MODE X` (R106). -/
def planSetDrdyMode (p : Config.Params) (x : OneBit) : Except Refusal Plan := typedSetter p (.drdyMode x)

/-- `SET_DRDY_MODE X` (R106). -/
def execSetDrdyMode (x : OneBit) (s : State) : Host.Outcome State Fault Refusal :=
  perform (.setDrdyMode x) (planSetDrdyMode s.params x) s

/-- The expansion of `SET_FIELD_RAW F, c` (R107): `RMW(F, c)` for any code of the field's width, legal or not. -/
def planSetFieldRaw (p : Config.Params) (f : Field) (c : Byte) : Except Refusal Plan :=
  exposed p <|
    match checkedField f, checkedCode f c with
    | .ok f, .ok c => .ok ⟨readModifyWrite f c, .nothing⟩
    | .error r, _ => .error r
    | _, .error r => .error r

/-- `SET_FIELD_RAW F, c` (R107). -/
def execSetFieldRaw (f : Field) (c : Byte) (s : State) : Host.Outcome State Fault Refusal :=
  perform (.setFieldRaw f c) (planSetFieldRaw s.params f c) s

/-- The reset command and the post-reset wait of `BEGIN`, as `POST_RESET_WAIT_PLACEMENT` has them (R108, D15). -/
def resetPhases (placement : Config.Placement) : List Phase :=
  match placement with
  | .ownTransaction => [.command (.reset false), .command .postResetWait]
  | .trailing => [.command (.reset true)]

/-- The four writes of `BEGIN`: whole bytes, nothing is read (R108). -/
def defaultWrites : List Phase :=
  [.command (.wreg 0 (readReg Config.defaultBytes 0)), .command (.wreg 1 (readReg Config.defaultBytes 1)),
   .command (.wreg 2 (readReg Config.defaultBytes 2)), .command (.wreg 3 (readReg Config.defaultBytes 3))]

/-- The expansion of `BEGIN` (R108). -/
def planBegin (p : Config.Params) : Except Refusal Plan := .ok ⟨resetPhases p.placement ++ defaultWrites, .begun⟩

/-- `BEGIN` (R108). -/
def execBegin (s : State) : Host.Outcome State Fault Refusal :=
  perform .beginInit (planBegin s.params) s

/-- The two transactions of a conversion read (R109). -/
def singleShotPhases : List Phase := [.command .start, .readSample]

/-- The expansion of `READ_SINGLE_SHOT` (R109). -/
def planReadSingleShot : Except Refusal Plan := .ok ⟨singleShotPhases, .result⟩

/-- `READ_SINGLE_SHOT` (R109). -/
def execReadSingleShot (s : State) : Host.Outcome State Fault Refusal :=
  perform .readSingleShot planReadSingleShot s

/-- The expansion of `READ_CHANNEL m` (R110): `SET_MUX m`, then `READ_SINGLE_SHOT`, written out in line (R90). -/
def planReadChannel (p : Config.Params) (m : Mux) : Except Refusal Plan :=
  match checkedVariant p (.mux m) with
  | .ok c => .ok ⟨readModifyWrite .mux c ++ singleShotPhases, .result⟩
  | .error r => .error r

/-- `READ_CHANNEL m` (R110). -/
def execReadChannel (m : Mux) (s : State) : Host.Outcome State Fault Refusal :=
  perform (.readChannel m) (planReadChannel s.params m) s

/-- The expansion of `DUMP_REGISTERS` (R111): four reads in address order. -/
def planDumpRegisters : Except Refusal Plan :=
  .ok ⟨[.readDump 0, .readDump 1, .readDump 2, .readDump 3], .dump⟩

/-- `DUMP_REGISTERS` (R111). -/
def execDumpRegisters (s : State) : Host.Outcome State Fault Refusal :=
  perform .dumpRegisters planDumpRegisters s

end Sys2Proof.Machine
end

