-- ==== Sys2Proof/Machine/RegisterModel.lean ====
section
/-! DEFINITION. The register model, R71 to R78: pure function units, which read only their operands, write no state of the ENGINE
and issue no transaction. -/

namespace Sys2Proof.Machine

/-- `ENCODE F, cur, c` (R71, with the frame of R80); a code wider than the field is refused. -/
def execEncode (f : Field) (cur c : Byte) (s : State) : Host.Outcome State Fault Refusal :=
  present ((checkedCode f c).map fun c => .byte (encodeField f cur c)) s

/-- `EXTRACT F, v` (R72). -/
def execExtract (f : Field) (v : Byte) (s : State) : Host.Outcome State Fault Refusal :=
  present (.ok (.code (extractField f v))) s

/-- `DECODE0 v` (R73). -/
def execDecode0 (v : Byte) (s : State) : Host.Outcome State Fault Refusal :=
  present (.ok (.decoded0 (decodeReg0 v))) s

/-- `DECODE1 v` (R74). -/
def execDecode1 (v : Byte) (s : State) : Host.Outcome State Fault Refusal :=
  present (.ok (.decoded1 (decodeReg1 v))) s

/-- `DECODE2 v` (R75). -/
def execDecode2 (v : Byte) (s : State) : Host.Outcome State Fault Refusal :=
  present (.ok (.decoded2 (decodeReg2 v))) s

/-- `DECODE3 v` (R76). -/
def execDecode3 (v : Byte) (s : State) : Host.Outcome State Fault Refusal :=
  present (.ok (.decoded3 (decodeReg3 v))) s

/-- `ENUM_ENCODE F, X` (R77); what is no variant of its field is refused. -/
def execEnumEncode (x : Variant) (s : State) : Host.Outcome State Fault Refusal :=
  present ((checkedVariant s.params x).map .code) s

/-- The value of `ENUM_DECODE F, c`: total on the codes of the fifteen enumerated fields (R78). `RESERVED0` is refused
(log 15), and a code wider than its one bit is named first, where the spec gives no order (DESIGN CHOICE, log 14). -/
def enumDecodeValue (p : Config.Params) (f : Field) (c : Byte) : Except Refusal Value :=
  match checkedCode f c with
  | .error r => .error r
  | .ok c =>
    match enumDecode p f c with
    | some x => .ok (.variant x)
    | none => .error .reservedField

/-- `ENUM_DECODE F, c` (R78). -/
def execEnumDecode (f : Field) (c : Byte) (s : State) : Host.Outcome State Fault Refusal :=
  present (enumDecodeValue s.params f c) s

end Sys2Proof.Machine
end

