-- ==== Sys2Proof/Machine/SampleDecoder.lean ====
section
/-! DEFINITION. The sample decoder, R112: one pure function unit. -/

namespace Sys2Proof.Machine

/-- `SDEC b0, b1, b2` (R112). -/
def execSdec (b0 b1 b2 : Byte) (s : State) : Host.Outcome State Fault Refusal :=
  present (.ok (.int32 (decodeSample ⟨b0, b1, b2⟩))) s

end Sys2Proof.Machine
end

