-- ==== Sys2Proof/Machine/TransactionExecutor.lean ====
section
/-! DEFINITION. The transaction executor, R82 to R88: the five primitives, each one transaction. -/

namespace Sys2Proof.Machine

/-- The expansion of `WREG a, v` (R84). -/
def planWreg (p : Config.Params) (a : RegAddr) (v : Byte) : Except Refusal Plan :=
  exposed p (.ok ⟨[.command (.wreg a v)], .nothing⟩)

/-- `WREG a, v` (R84). -/
def execWreg (a : RegAddr) (v : Byte) (s : State) : Host.Outcome State Fault Refusal :=
  perform (.wreg a v) (planWreg s.params a v) s

/-- The expansion of `RREG a` (R85). -/
def planRreg (p : Config.Params) (a : RegAddr) : Except Refusal Plan :=
  exposed p (.ok ⟨[.readByte a], .rbyte⟩)

/-- `RREG a` (R85). -/
def execRreg (a : RegAddr) (s : State) : Host.Outcome State Fault Refusal :=
  perform (.rreg a) (planRreg s.params a) s

/-- The expansion of `RESET` (R86). -/
def planReset (p : Config.Params) : Except Refusal Plan :=
  exposed p (.ok ⟨[.command (.reset false)], .nothing⟩)

/-- `RESET` (R86). -/
def execReset (s : State) : Host.Outcome State Fault Refusal :=
  perform .reset (planReset s.params) s

/-- The expansion of `START` (R87). -/
def planStart (p : Config.Params) : Except Refusal Plan :=
  exposed p (.ok ⟨[.command .start], .nothing⟩)

/-- `START` (R87). -/
def execStart (s : State) : Host.Outcome State Fault Refusal :=
  perform .start (planStart s.params) s

/-- The expansion of `SREAD` (R88). -/
def planSread (p : Config.Params) : Except Refusal Plan :=
  exposed p (.ok ⟨[.readSample], .sample⟩)

/-- `SREAD` (R88). -/
def execSread (s : State) : Host.Outcome State Fault Refusal :=
  perform .sread (planSread s.params) s

end Sys2Proof.Machine
end

