-- ==== Sys2Proof/Machine/Sequencer.lean ====
section
/-! DEFINITION. The hardwired sequencer (R21, R47): the expansion of every operation, and one more transaction of an
operation in progress. -/

namespace Sys2Proof.Machine

/-- The expansion of each operation (R25); a pure function unit has none, its length is 0. -/
def planOf (p : Config.Params) : Instr → Except Refusal Plan
  | .encode _ _ _ => .ok ⟨[], .nothing⟩
  | .extract _ _ => .ok ⟨[], .nothing⟩
  | .decode0 _ => .ok ⟨[], .nothing⟩
  | .decode1 _ => .ok ⟨[], .nothing⟩
  | .decode2 _ => .ok ⟨[], .nothing⟩
  | .decode3 _ => .ok ⟨[], .nothing⟩
  | .enumEncode _ => .ok ⟨[], .nothing⟩
  | .enumDecode _ _ => .ok ⟨[], .nothing⟩
  | .sdec _ _ _ => .ok ⟨[], .nothing⟩
  | .wreg a v => planWreg p a v
  | .rreg a => planRreg p a
  | .reset => planReset p
  | .start => planStart p
  | .sread => planSread p
  | .setMux x => planSetMux p x
  | .setGain x => planSetGain p x
  | .setPgaBypass x => planSetPgaBypass p x
  | .setDataRate x => planSetDataRate p x
  | .setOperatingMode x => planSetOperatingMode p x
  | .setConversionMode x => planSetConversionMode p x
  | .setTempSensorMode x => planSetTempSensorMode p x
  | .setBurnoutCurrent x => planSetBurnoutCurrent p x
  | .setVrefSelect x => planSetVrefSelect p x
  | .setFirFilter x => planSetFirFilter p x
  | .setLowSideSwitch x => planSetLowSideSwitch p x
  | .setIdacCurrent x => planSetIdacCurrent p x
  | .setIdac1Route x => planSetIdac1Route p x
  | .setIdac2Route x => planSetIdac2Route p x
  | .setDrdyMode x => planSetDrdyMode p x
  | .setFieldRaw f c => planSetFieldRaw p f c
  | .beginInit => planBegin p
  | .readSingleShot => planReadSingleShot
  | .readChannel m => planReadChannel p m
  | .dumpRegisters => planDumpRegisters

/-- Transaction `k` of the operation in progress: one step of a machine that is in the middle of an expansion
(R21, R90, log 10). -/
def resume (i : Instr) (k : Nat) (s : State) : Host.Outcome State Fault Refusal :=
  match planOf s.params i with
  | .error r => .refused r
  | .ok pl =>
    match pl.phases[k]? with
    | some ph => .next (advance i pl k ph s)
    | none => .fault .sequencerOutOfRange

end Sys2Proof.Machine
end

