-- ==== Sys2Proof/Machine/Dispatch.lean ====
section
/-! DEFINITION. One arm per operation: HOST invokes it on the CMD port. -/

namespace Sys2Proof.Machine

def exec (i : Instr) (s : State) : Host.Outcome State Fault Refusal :=
  match i with
  | .encode f cur c => Sys2Proof.Machine.execEncode f cur c s
  | .extract f v => Sys2Proof.Machine.execExtract f v s
  | .decode0 v => Sys2Proof.Machine.execDecode0 v s
  | .decode1 v => Sys2Proof.Machine.execDecode1 v s
  | .decode2 v => Sys2Proof.Machine.execDecode2 v s
  | .decode3 v => Sys2Proof.Machine.execDecode3 v s
  | .enumEncode x => Sys2Proof.Machine.execEnumEncode x s
  | .enumDecode f c => Sys2Proof.Machine.execEnumDecode f c s
  | .wreg a v => Sys2Proof.Machine.execWreg a v s
  | .rreg a => Sys2Proof.Machine.execRreg a s
  | .reset => Sys2Proof.Machine.execReset s
  | .start => Sys2Proof.Machine.execStart s
  | .sread => Sys2Proof.Machine.execSread s
  | .setMux x => Sys2Proof.Machine.execSetMux x s
  | .setGain x => Sys2Proof.Machine.execSetGain x s
  | .setPgaBypass x => Sys2Proof.Machine.execSetPgaBypass x s
  | .setDataRate x => Sys2Proof.Machine.execSetDataRate x s
  | .setOperatingMode x => Sys2Proof.Machine.execSetOperatingMode x s
  | .setConversionMode x => Sys2Proof.Machine.execSetConversionMode x s
  | .setTempSensorMode x => Sys2Proof.Machine.execSetTempSensorMode x s
  | .setBurnoutCurrent x => Sys2Proof.Machine.execSetBurnoutCurrent x s
  | .setVrefSelect x => Sys2Proof.Machine.execSetVrefSelect x s
  | .setFirFilter x => Sys2Proof.Machine.execSetFirFilter x s
  | .setLowSideSwitch x => Sys2Proof.Machine.execSetLowSideSwitch x s
  | .setIdacCurrent x => Sys2Proof.Machine.execSetIdacCurrent x s
  | .setIdac1Route x => Sys2Proof.Machine.execSetIdac1Route x s
  | .setIdac2Route x => Sys2Proof.Machine.execSetIdac2Route x s
  | .setDrdyMode x => Sys2Proof.Machine.execSetDrdyMode x s
  | .setFieldRaw f c => Sys2Proof.Machine.execSetFieldRaw f c s
  | .beginInit => Sys2Proof.Machine.execBegin s
  | .readSingleShot => Sys2Proof.Machine.execReadSingleShot s
  | .readChannel m => Sys2Proof.Machine.execReadChannel m s
  | .dumpRegisters => Sys2Proof.Machine.execDumpRegisters s
  | .sdec b0 b1 b2 => Sys2Proof.Machine.execSdec b0 b1 b2 s

end Sys2Proof.Machine
end

