-- ==== Sys2Proof/Machine/Step.lean ====
section
/-! DEFINITION. One step of the machine (R133), and placing an instruction where the next step takes it. -/

namespace Sys2Proof.Machine

/-- In the middle of an operation, its next transaction; otherwise the operation HOST presents next, run from its
invocation to its completion or abort; "the ENGINE does nothing until HOST invokes an operation" (R133). -/
def step (s : State) : Host.Outcome State Fault Refusal :=
  match s.seq with
  | .busy i k => resume i k s
  | .idle =>
    match s.cmd with
    | [] => .next s
    | c :: rest =>
      match fetchCommand c with
      | .ok i => exec i { s with cmd := rest }
      | .error r => .refused (.undecodable r)

/-- The word presented next on the CMD port, to an ENGINE that is `IDLE` (log 9). -/
def State.withFetchWord (s : State) (nbits w : Nat) : State :=
  { s with seq := .idle, cmd := .wire (wordBytes nbits w) :: s.cmd }

end Sys2Proof.Machine
end

