-- ==== Sys2Proof/Safety.lean ====
section
/-! DEFINITION. What counts as a safe run: the post-reset obligation `ResetSettled` (R136), transactions only in the
formats of R57, and the sequencer's position inside its expansion (R21). -/

namespace Sys2Proof.Safety

open Sys2Proof.Machine

/-! ### The post-reset settle (R136) -/

/-- Reading onward: "a `Wait` of at least 50 000 ns occurs before the first `Write`, `Read` or `Transfer`, or no
`Write`, `Read` or `Transfer` occurs at all". -/
def settledFrom : List SubOp → Bool
  | [] => true
  | .wait d :: xs => decide (Config.tReset ≤ d) || settledFrom xs
  | .write _ :: _ => false
  | .read _ :: _ => false
  | .transfer _ :: _ => false

/-- What a sub-operation still transmits behind its first byte 0x06; none if it transmits no such byte (log 12). -/
def behindResetByte (x : SubOp) : Option (List Byte) :=
  if x.transmits.contains Config.cmdReset then some (x.transmits.dropWhile (· != Config.cmdReset)).tail else none

/-- Every byte 0x06 among the sub-operations is settled: nothing more of its own sub-operation follows it, and reading
onward from it the wait comes first. -/
def settledOnward : List SubOp → Bool
  | [] => true
  | x :: xs =>
    (match behindResetByte x with
      | none => true
      | some rest => rest.isEmpty && settledFrom xs) && settledOnward xs

/-- The sub-operations of the transactions, in order, each transaction in normal form (R36). Those of a transaction
that returned `Err` all count, its waits too, although R35 and R122 leave open how much of it was performed (DESIGN
CHOICE, log 26). -/
def subOpsOf (es : List TraceEntry) : List SubOp := es.flatMap fun e => normalForm e.subOps

/-- `ResetSettled(TRACE)` (R136): "for every transaction that transmits the byte `0x06`", the value byte of a register
write included. It is the premise of every claim about what the reference responder holds or returns. -/
def resetSettled (es : List TraceEntry) : Bool := settledOnward (subOpsOf es)

/-- Every byte 0x06 of the trace has been waited out already: the predicate holds and goes on to hold whatever
transaction comes next. -/
def resetWaitedOut (es : List TraceEntry) : Bool := settledOnward (subOpsOf es ++ [.read 1])

/-! ### The invariant -/

/-- A recorded transaction is one of the formats of R57; with `Ok` it has captured the right number of bytes (R35),
with `Err` none. -/
def entryInFormat (e : TraceEntry) : Prop :=
  (∃ f : Frame, e.subOps = f.subOps) ∧
    match e.error with
    | none => e.captured.length = xactCaptures e.subOps
    | some _ => e.captured = []

/-- R21: `SEQ` is `IDLE` or `(op, k)` with `0 <= k < len(op)`; the `k` transactions already issued are the last ones
of the trace and none of them has failed. -/
def seqInRange (s : State) : Prop :=
  match s.seq with
  | .idle => True
  | .busy i k =>
    (∃ pl, planOf s.params i = .ok pl ∧ k < pl.phases.length) ∧
      k ≤ s.trace.length ∧ ∀ e ∈ s.trace.drop (s.trace.length - k), e.error = none

/-- The invariant every step keeps. -/
def Inv (s : State) : Prop := seqInRange s ∧ ∀ e ∈ s.trace, entryInFormat e

/-- Two traces are equal when they are equal in normal form (R23, R36). -/
def sameTrace (xs ys : List TraceEntry) : Prop :=
  xs.map (fun e => (normalForm e.subOps, e.captured, e.error)) =
    ys.map (fun e => (normalForm e.subOps, e.captured, e.error))

end Sys2Proof.Safety
end

