-- ==== Sys2Proof/Certificates/Slice0/Obligations.lean ====
section
/-! DEFINITION. The statements about the model, and the words they are said in. A statement says what the spec's rule
says; where the LINK's or EXTERNAL's choice matters it is the choice of `turnAt`, scripted or free, so that a statement
holds for every choice. Premises name only the state and the operands. -/

namespace Sys2Proof.Claims

open Sys2Proof.Machine Sys2Proof.Safety

/-! ### The environment's choices at the coming transactions -/

/-- The environment's choices at the first `n` coming transactions are used up. -/
def spent : Nat → State → State
  | 0, s => s
  | n + 1, s => spent n (consumeTurn s)

/-- The environment's choices at the `k`-th coming transaction, counted from 0. -/
def turnAt (k : Nat) (s : State) : Turn := currentTurn (spent k s)

/-- The LINK answers `Ok` to the next `n` transactions. -/
def linkOk (n : Nat) (s : State) : Prop := ∀ k, k < n → (turnAt k s).fault = none

/-- EXTERNAL takes no step before the `k`-th coming transaction. -/
def quietAt (k : Nat) (s : State) : Prop := s.params.externalInterference = false ∨ (turnAt k s).external = []

/-- `CFG` as the `k`-th coming transaction finds it, when the one before left `cfg`. -/
def foundCfg (k : Nat) (s : State) (cfg : Regs) : Regs := afterExternal s.params (turnAt k s) cfg

/-! ### What a LINK that answers `Ok` does, by kind: any bytes (R49), or the reference responder (R51 to R55) -/

/-- The byte a register read returns. -/
def linkReads (k : Nat) (s : State) (cfg : Regs) (a : RegAddr) : Byte :=
  match s.params.link with
  | .responder => readReg cfg a
  | .unconstrained => (turnAt k s).rx.b0

/-- `CFG` after a register write. -/
def linkWrites (k : Nat) (s : State) (cfg : Regs) (a : RegAddr) (v : Byte) : Regs :=
  match s.params.link with
  | .responder => writeReg cfg a v
  | .unconstrained => writeReg cfg a (readReg (turnAt k s).far a)

/-- `CFG` after the reset command. -/
def linkResets (k : Nat) (s : State) : Regs :=
  match s.params.link with
  | .responder => s.params.devReset
  | .unconstrained => (turnAt k s).far

/-- The three bytes a sample read returns, and the stream after it. -/
def linkSample (k : Nat) (s : State) : Sample × List Sample :=
  match s.params.link, s.samples with
  | .responder, x :: rest => (x, rest)
  | _, samples => ((turnAt k s).rx, samples)

/-! ### Transactions as the spec writes them out (R57, 95_test_vectors.md 2.2), each with outcome `Ok` -/

def readEntry (a : RegAddr) (d : Byte) : TraceEntry :=
  ⟨[.wait 50, .write [0x20 ||| (a.setWidth 8 <<< 2)], .transfer [0xFF]], [d], none⟩

def writeEntry (a : RegAddr) (v : Byte) : TraceEntry :=
  ⟨[.wait 50, .write [0x40 ||| (a.setWidth 8 <<< 2), v]], [], none⟩

def resetEntry : TraceEntry := ⟨[.wait 50, .write [0x06]], [], none⟩

def postResetWaitEntry : TraceEntry := ⟨[.wait 50000], [], none⟩

def trailingResetEntry : TraceEntry := ⟨[.wait 50, .write [0x06], .wait 50000], [], none⟩

def startEntry : TraceEntry := ⟨[.wait 50, .write [0x08]], [], none⟩

def sampleEntry (x : Sample) : TraceEntry := ⟨[.wait 50, .read 3], [x.b0, x.b1, x.b2], none⟩

/-- The transaction as it is recorded when the LINK answers `Err(e)` to it: nothing is captured (R35, R121). -/
def failed (x : TraceEntry) (e : TransportError) : TraceEntry := { x with captured := [], error := some e }

/-- With the transactions `new` behind the trace, a statement may say what the LINK's answers and `CFG` are: the
reference responder's are meaningful on a settled trace only, the unconstrained LINK promises nothing (R53, R136). -/
def answersMeaningful (s : State) (new : List TraceEntry) : Prop :=
  s.params.link = .responder → resetSettled (s.trace ++ new) = true

/-- `CFG` before the `n`-th coming transaction when none of the earlier ones changes it: EXTERNAL's steps alone. -/
def cfgAfterExternals : Nat → State → Regs
  | 0, s => s.cfg
  | n + 1, s => foundCfg n s (cfgAfterExternals n s)

/-- The far end after a faulted transaction, from what the transaction found (R122). -/
def farEndAfterFault (p : Config.Params) (found cfg : Regs) : Frame → Prop
  | .wreg a _ => ∀ b, b ≠ a → readReg cfg b = readReg found b
  | .reset _ => ∀ b, readReg cfg b = readReg found b ∨ readReg cfg b = readReg p.devReset b
  | .rreg _ | .start | .sread | .postResetWait => cfg = found

/-- The nanoseconds of all the `Wait`s of a transaction together. -/
def waitTotal (xs : List SubOp) : Nat :=
  (xs.map fun x => match x with
    | .wait d => d
    | .write _ | .read _ | .transfer _ => 0).sum

/-- The legal code sets of R64 are the default ones, whatever the other parameters are. -/
def defaultLegalSets (p : Config.Params) : Prop :=
  p.legalGain = Config.defaultParams.legalGain ∧
  p.legalOperatingMode = Config.defaultParams.legalOperatingMode ∧
  p.legalVrefSelect = Config.defaultParams.legalVrefSelect ∧
  p.legalFirFilter = Config.defaultParams.legalFirFilter ∧
  p.legalIdacCurrent = Config.defaultParams.legalIdacCurrent ∧
  p.unrecognisedDataRate = Config.defaultParams.unrecognisedDataRate

/-! ### The operations by shape -/

/-- The field and code of a setter: the fifteen typed ones with a variant of their field (R92 to R106), and
`SET_FIELD_RAW` where it is exposed and its operands are inside their types (R107). -/
def setterTarget (p : Config.Params) : Instr → Option (Field × Byte)
  | .setMux x => (enumEncode p (.mux x)).map fun c => (.mux, c)
  | .setGain x => (enumEncode p (.gain x)).map fun c => (.gain, c)
  | .setPgaBypass x => (enumEncode p (.pgaBypass x)).map fun c => (.pgaBypass, c)
  | .setDataRate x => (enumEncode p (.dataRate x)).map fun c => (.dataRate, c)
  | .setOperatingMode x => (enumEncode p (.operatingMode x)).map fun c => (.operatingMode, c)
  | .setConversionMode x => (enumEncode p (.conversionMode x)).map fun c => (.conversionMode, c)
  | .setTempSensorMode x => (enumEncode p (.tempSensorMode x)).map fun c => (.tempSensorMode, c)
  | .setBurnoutCurrent x => (enumEncode p (.burnoutCurrent x)).map fun c => (.burnoutCurrent, c)
  | .setVrefSelect x => (enumEncode p (.vrefSelect x)).map fun c => (.vrefSelect, c)
  | .setFirFilter x => (enumEncode p (.firFilter x)).map fun c => (.firFilter, c)
  | .setLowSideSwitch x => (enumEncode p (.lowSideSwitch x)).map fun c => (.lowSideSwitch, c)
  | .setIdacCurrent x => (enumEncode p (.idacCurrent x)).map fun c => (.idacCurrent, c)
  | .setIdac1Route x => (enumEncode p (.idac1Route x)).map fun c => (.idac1Route, c)
  | .setIdac2Route x => (enumEncode p (.idac2Route x)).map fun c => (.idac2Route, c)
  | .setDrdyMode x => (enumEncode p (.drdyMode x)).map fun c => (.drdyMode, c)
  | .setFieldRaw f c =>
    if p.exposePrimitives ∧ f ≠ .reserved0 ∧ c.toNat < 2 ^ fieldWidth f then some (f, c) else none
  | _ => none

/-- `len(op)`: the number of transactions of an operation (R21); the nine pure function units issue none. -/
def opLength (p : Config.Params) : Instr → Nat
  | .encode _ _ _ | .extract _ _ | .decode0 _ | .decode1 _ | .decode2 _ | .decode3 _ | .enumEncode _
  | .enumDecode _ _ | .sdec _ _ _ => 0
  | .wreg _ _ | .rreg _ | .reset | .start | .sread => 1
  | .beginInit => if p.placement = .trailing then 5 else 6
  | .readSingleShot => 2
  | .readChannel _ => 4
  | .dumpRegisters => 4
  | .setMux _ | .setGain _ | .setPgaBypass _ | .setDataRate _ | .setOperatingMode _ | .setConversionMode _
  | .setTempSensorMode _ | .setBurnoutCurrent _ | .setVrefSelect _ | .setFirFilter _ | .setLowSideSwitch _
  | .setIdacCurrent _ | .setIdac1Route _ | .setIdac2Route _ | .setDrdyMode _ | .setFieldRaw _ _ => 2

/-- The fallback of a field's enumeration (R66). -/
def fallbackOf : Field → Option Variant
  | .mux => some (.mux .unrecognized)
  | .gain => some (.gain .unrecognized)
  | .pgaBypass => some (.pgaBypass .unrecognized)
  | .dataRate => some (.dataRate .unrecognized)
  | .operatingMode => some (.operatingMode .unrecognized)
  | .conversionMode => some (.conversionMode .unrecognized)
  | .tempSensorMode => some (.tempSensorMode .unrecognized)
  | .burnoutCurrent => some (.burnoutCurrent .unrecognized)
  | .vrefSelect => some (.vrefSelect .unrecognized)
  | .firFilter => some (.firFilter .unrecognized)
  | .lowSideSwitch => some (.lowSideSwitch .unrecognized)
  | .idacCurrent => some (.idacCurrent .unrecognized)
  | .idac1Route => some (.idac1Route .unrecognized)
  | .idac2Route => some (.idac2Route .unrecognized)
  | .drdyMode => some (.drdyMode .unrecognized)
  | .reserved0 => none

/-- The fields of a register, most significant first (R15). -/
def fieldsOf (a : RegAddr) : List Field :=
  if a = 0 then [.mux, .gain, .pgaBypass]
  else if a = 1 then [.dataRate, .operatingMode, .conversionMode, .tempSensorMode, .burnoutCurrent]
  else if a = 2 then [.vrefSelect, .firFilter, .lowSideSwitch, .idacCurrent]
  else [.idac1Route, .idac2Route, .drdyMode, .reserved0]

/-- The variant an operation takes as its operand (R77, R92 to R106, R110). -/
def variantOperand : Instr → Option Variant
  | .enumEncode x => some x
  | .setMux x => some (.mux x)
  | .setGain x => some (.gain x)
  | .setPgaBypass x => some (.pgaBypass x)
  | .setDataRate x => some (.dataRate x)
  | .setOperatingMode x => some (.operatingMode x)
  | .setConversionMode x => some (.conversionMode x)
  | .setTempSensorMode x => some (.tempSensorMode x)
  | .setBurnoutCurrent x => some (.burnoutCurrent x)
  | .setVrefSelect x => some (.vrefSelect x)
  | .setFirFilter x => some (.firFilter x)
  | .setLowSideSwitch x => some (.lowSideSwitch x)
  | .setIdacCurrent x => some (.idacCurrent x)
  | .setIdac1Route x => some (.idac1Route x)
  | .setIdac2Route x => some (.idac2Route x)
  | .setDrdyMode x => some (.drdyMode x)
  | .readChannel m => some (.mux m)
  | _ => none

/-- The operations that can change the register at `a`: a write of it, a setter of one of its fields, `READ_CHANNEL` for
register 0, and the two that reset (R84, R86, R92 to R108, R110). -/
def mayChange (a : RegAddr) : Instr → Bool
  | .wreg b _ => b = a
  | .reset | .beginInit => true
  | .setMux _ | .setGain _ | .setPgaBypass _ | .readChannel _ => a = 0
  | .setDataRate _ | .setOperatingMode _ | .setConversionMode _ | .setTempSensorMode _ | .setBurnoutCurrent _ => a = 1
  | .setVrefSelect _ | .setFirFilter _ | .setLowSideSwitch _ | .setIdacCurrent _ => a = 2
  | .setIdac1Route _ | .setIdac2Route _ | .setDrdyMode _ => a = 3
  | .setFieldRaw f _ => fieldReg f = a
  | .rreg _ | .start | .sread | .readSingleShot | .dumpRegisters | .encode _ _ _ | .extract _ _ | .decode0 _
  | .decode1 _ | .decode2 _ | .decode3 _ | .enumEncode _ | .enumDecode _ _ | .sdec _ _ _ => false

/-- The operations, invoked one after another, each run to its end, lead from one state to the other. -/
def leadsTo : List Instr → State → State → Prop
  | [], s, t => s = t
  | i :: is, s, t => ∃ u, exec i s = .next u ∧ leadsTo is u t

/-- The field descriptor table as R62 prints it: field, register, width, shift, mask. -/
def descriptorTable : List (Field × RegAddr × Nat × Nat × Byte) :=
  [(.mux, 0, 4, 4, 0xF0), (.gain, 0, 3, 1, 0x0E), (.pgaBypass, 0, 1, 0, 0x01), (.dataRate, 1, 3, 5, 0xE0),
   (.operatingMode, 1, 2, 3, 0x18), (.conversionMode, 1, 1, 2, 0x04), (.tempSensorMode, 1, 1, 1, 0x02),
   (.burnoutCurrent, 1, 1, 0, 0x01)] ++
  [(.vrefSelect, 2, 2, 6, 0xC0), (.firFilter, 2, 2, 4, 0x30), (.lowSideSwitch, 2, 1, 3, 0x08),
   (.idacCurrent, 2, 3, 0, 0x07), (.idac1Route, 3, 3, 5, 0xE0), (.idac2Route, 3, 3, 2, 0x1C),
   (.drdyMode, 3, 1, 1, 0x02), (.reserved0, 3, 1, 0, 0x01)]

/-- The ten command bytes of R59. -/
def commandBytes : List Byte := [0x06, 0x08, 0x20, 0x24, 0x28, 0x2C, 0x40, 0x44, 0x48, 0x4C]

/-- The state without what no operation reads: `LIFE`, `STATUS`, the datapath registers, `TRACE` and the CMD port's
last response replaced by those of another state. -/
def withUnread (s u : State) : State :=
  { s with
    life := u.life, status := u.status, tmp := u.tmp, rxbuf := u.rxbuf, result := u.result, dump := u.dump
    rbyte := u.rbyte, trace := u.trace, response := u.response }

end Sys2Proof.Claims

open Sys2Proof Sys2Proof.Machine Sys2Proof.Safety Sys2Proof.Claims

/-! ### Encodings -/

/-- R58's patterns written out bit by bit decode to the primitives they stand for (a sanity statement). -/
def Obligations.TableWordsDecodeToTheirPrimitives : Prop :=
  decodeTableWord 8 0b01000100 = some (.wreg 1 0) ∧
  decodeTableWord 16 0b0001000001001000 = some (.wreg 2 0x10) ∧
  decodeTableWord 8 0b00101100 = some (.rreg 3) ∧
  decodeTableWord 8 0b00000110 = some .reset ∧
  decodeTableWord 8 0b00001000 = some .start ∧
  decodeTableWord 8 0b01010000 = none ∧
  decodeTransaction [.wait 50, .read 3] = .ok .sread

/-- R60: the register commands are `base | (a << 2)` at 8 bits, the address overlaps neither base, so `|` equals `+`. -/
def Obligations.RegisterCommandIsBaseOrShiftedAddress : Prop :=
  ∀ (a : RegAddr) (v : Byte),
    encode (.wreg a v) = some [0x40 ||| (a.setWidth 8 <<< 2), v] ∧
    encode (.rreg a) = some [0x20 ||| (a.setWidth 8 <<< 2)] ∧
    (a.setWidth 8 <<< 2 : Byte).toNat ≤ 0x0C ∧
    (0x40 ||| (a.setWidth 8 <<< 2) : Byte) = 0x40 + (a.setWidth 8 <<< 2) ∧
    (0x20 ||| (a.setWidth 8 <<< 2) : Byte) = 0x20 + (a.setWidth 8 <<< 2)

/-- Whatever follows them, the command bytes of an operation decode to it and leave what follows. -/
def Obligations.EncodedCommandBytesDecodeBack : Prop :=
  ∀ (i : Instr) (bytes rest : List Byte), encode i = some bytes → decode (bytes ++ rest) = .ok (i, rest)

/-- The decoder accepts nothing but command bytes of R58: what it reads is what the encoder writes. -/
def Obligations.DecodedCommandBytesAreEncodings : Prop :=
  ∀ (bytes rest : List Byte) (i : Instr),
    decode bytes = .ok (i, rest) → ∃ head, encode i = some head ∧ bytes = head ++ rest

/-- Every grouping of a primitive's bytes and waits into sub-operations decodes to the primitive: no bit of an encoding
is dropped and the grouping is not looked at (R36, R69). That a grouping with an empty `Write`, which R35 does not have,
decodes too is the model's choice (log 27). -/
def Obligations.EveryGroupingOfAPrimitiveDecodesBack : Prop :=
  ∀ (i : Instr) (ys xs : List SubOp),
    encodeTransaction i = some ys → normalForm xs = ys → decodeTransaction xs = .ok i

/-- A transaction that decodes is, in normal form, the primitive's own with no wait shortened (R68, D12). -/
def Obligations.DecodedTransactionsAreEncodings : Prop :=
  ∀ (xs : List SubOp) (i : Instr),
    decodeTransaction xs = .ok i → ∃ ys, encodeTransaction i = some ys ∧ meetsWaits (normalForm xs) ys = true

/-- R36: the transactions of R57 are in normal form and pairwise distinct. -/
def Obligations.FormatsAreNormalAndDistinct : Prop :=
  (∀ f : Frame, normalForm f.subOps = f.subOps) ∧ ∀ f g : Frame, f.subOps = g.subOps → f = g

/-- R36: the normal form merges adjacent writes and adjacent waits wherever they stand, keeps the bytes transmitted, the
number captured and the sum of the durations waited, and is final. -/
def Obligations.NormalFormMergesAdjacent : Prop :=
  ∀ xs ys : List SubOp,
    (∀ b c, normalForm (xs ++ .write b :: .write c :: ys) = normalForm (xs ++ .write (b ++ c) :: ys)) ∧
    (∀ d e, normalForm (xs ++ .wait d :: .wait e :: ys) = normalForm (xs ++ .wait (d + e) :: ys)) ∧
    xactTransmits (normalForm xs) = xactTransmits xs ∧
    xactCaptures (normalForm xs) = xactCaptures xs ∧
    waitTotal (normalForm xs) = waitTotal xs ∧
    normalForm (normalForm xs) = normalForm xs

/-- R59, R68: an operation only appends transactions in the formats of R57, and the first byte of each, if it
transmits any, is one of the ten command bytes. -/
def Obligations.OnlyTheTenCommandBytesAreSent : Prop :=
  ∀ (i : Instr) (s t : State), exec i s = .next t →
    ∃ new, t.trace = s.trace ++ new ∧
      ∀ e ∈ new, (∃ f : Frame, e.subOps = f.subOps) ∧
        ∀ b ∈ (xactTransmits e.subOps).head?, b ∈ commandBytes

/-- R51 to R56: what the reference responder answers, by the bytes a transaction transmits and captures with its `Wait`s
ignored (R50, decision D17); it refuses every transaction of another shape. What it makes of a list with an empty
`Write`, which is no transaction (R35), is the model's choice (log 27). -/
def Obligations.ResponderAnswers : Prop :=
  ∀ (p : Config.Params) (t : Turn) (cfg : Regs) (samples : List Sample) (xs : List SubOp),
    let seen : List SubOp := normalForm (xs.filter fun x => !x.isWait)
    (∀ (a : RegAddr) (v : Byte), seen = [.write [0x40 ||| (a.setWidth 8 <<< 2), v]] →
      respond p t xs cfg samples = some ⟨none, [], writeReg cfg a v, samples⟩) ∧
    (∀ a : RegAddr, seen = [.write [0x20 ||| (a.setWidth 8 <<< 2)], .transfer [0xFF]] →
      respond p t xs cfg samples = some ⟨none, [readReg cfg a], cfg, samples⟩) ∧
    (seen = [.write [0x06]] → respond p t xs cfg samples = some ⟨none, [], p.devReset, samples⟩) ∧
    (seen = [.write [0x08]] → respond p t xs cfg samples = some ⟨none, [], cfg, samples⟩) ∧
    (∀ x rest, samples = x :: rest → seen = [.read 3] →
      respond p t xs cfg samples = some ⟨none, [x.b0, x.b1, x.b2], cfg, rest⟩) ∧
    (xs ≠ [] → (∀ x ∈ xs, x.isWait = true) → respond p t xs cfg samples = some ⟨none, [], cfg, samples⟩) ∧
    (respond p t xs cfg samples ≠ none →
      (∃ (a : RegAddr) (v : Byte), seen = [.write [0x40 ||| (a.setWidth 8 <<< 2), v]]) ∨
      (∃ a : RegAddr, seen = [.write [0x20 ||| (a.setWidth 8 <<< 2)], .transfer [0xFF]]) ∨
      seen = [.write [0x06]] ∨ seen = [.write [0x08]] ∨ seen = [.read 3] ∨ ∀ x ∈ xs, x.isWait = true)

/-! ### The register model -/

/-- `ENCODE`, where it is on the CMD port (D24), completes on a code of `w_F` bits: it clears exactly the field's mask
and ORs in the shifted code, and nothing but the response changes (R71); a wider code is refused, not masked (decision
D11). -/
def Obligations.EncodeClearsTheMaskAndOrsTheCode : Prop :=
  ∀ (s : State) (f : Field) (cur c : Byte), s.seq = .idle → s.params.exposePrimitives = true →
    (c.toNat < 2 ^ fieldWidth f → exec (.encode f cur c) s =
      .next { s with response := some (.ok (.byte ((cur &&& ~~~fieldMask f) ||| (c <<< fieldShift f)))) }) ∧
    (2 ^ fieldWidth f ≤ c.toNat → exec (.encode f cur c) s = .refused .codeTooWide)

/-- `EXTRACT`, where it is on the CMD port (D24), completes on every byte: mask and shift, a code in `0..2^w_F - 1`
(R72); nothing but the response changes. -/
def Obligations.ExtractMasksAndShifts : Prop :=
  ∀ (s : State) (f : Field) (v : Byte), s.seq = .idle → s.params.exposePrimitives = true →
    exec (.extract f v) s = .next { s with response := some (.ok (.code ((v &&& fieldMask f) >>> fieldShift f))) } ∧
    ((v &&& fieldMask f) >>> fieldShift f).toNat < 2 ^ fieldWidth f

/-- `DECODE0` to `DECODE3`, where they are on the CMD port (D24), complete on every byte with its bit ranges (R73 to
R76); nothing but the response changes. -/
def Obligations.DecodersReturnTheBitRanges : Prop :=
  ∀ (s : State) (v : Byte), s.seq = .idle → s.params.exposePrimitives = true →
    exec (.decode0 v) s =
      .next { s with response := some (.ok (.decoded0 ⟨v.extractLsb 7 4, v.extractLsb 3 1, v.extractLsb 0 0⟩)) } ∧
    exec (.decode1 v) s =
      .next { s with response := some (.ok (.decoded1
        ⟨v.extractLsb 7 5, v.extractLsb 4 3, v.extractLsb 2 2, v.extractLsb 1 1, v.extractLsb 0 0⟩)) } ∧
    exec (.decode2 v) s =
      .next { s with response := some (.ok (.decoded2
        ⟨v.extractLsb 7 6, v.extractLsb 5 4, v.extractLsb 3 3, v.extractLsb 2 0⟩)) } ∧
    exec (.decode3 v) s =
      .next { s with response := some (.ok (.decoded3
        ⟨v.extractLsb 7 5, v.extractLsb 4 2, v.extractLsb 1 1, v.extractLsb 0 0⟩)) }

/-- R73: "Each component equals `EXTRACT` of that field", for the four registers. -/
def Obligations.DecodedComponentsAreExtracts : Prop :=
  ∀ v : Byte,
    [(decodeReg0 v).mux.setWidth 8, (decodeReg0 v).gain.setWidth 8, (decodeReg0 v).pgaBypass.setWidth 8] =
      (fieldsOf 0).map (extractField · v) ∧
    [(decodeReg1 v).dataRate.setWidth 8, (decodeReg1 v).operatingMode.setWidth 8,
        (decodeReg1 v).conversionMode.setWidth 8, (decodeReg1 v).tempSensorMode.setWidth 8,
        (decodeReg1 v).burnoutCurrent.setWidth 8] =
      (fieldsOf 1).map (extractField · v) ∧
    [(decodeReg2 v).vrefSelect.setWidth 8, (decodeReg2 v).firFilter.setWidth 8,
        (decodeReg2 v).lowSideSwitch.setWidth 8, (decodeReg2 v).idacCurrent.setWidth 8] =
      (fieldsOf 2).map (extractField · v) ∧
    [(decodeReg3 v).idac1Route.setWidth 8, (decodeReg3 v).idac2Route.setWidth 8,
        (decodeReg3 v).drdyMode.setWidth 8, (decodeReg3 v).reserved0.setWidth 8] =
      (fieldsOf 3).map (extractField · v)

/-- `ENUM_ENCODE`, where it is on the CMD port (D24), completes on every variant of a field: the unique code in
`LEGAL[F]` whose variant it is, of `w_F` bits; a reserved routing variant is one and gives `RESERVED_ROUTE_CODE`; the
fallback is refused (R77). -/
def Obligations.EnumEncodeReturnsTheUniqueLegalCode : Prop :=
  ∀ s : State, s.seq = .idle → s.params.exposePrimitives = true →
    (∀ x, (∃ c, legalCode s.params (variantField x) c = true ∧ enumDecode s.params (variantField x) c = some x) →
      ∃ c, exec (.enumEncode x) s = .next { s with response := some (.ok (.code c)) } ∧
        c.toNat < 2 ^ fieldWidth (variantField x) ∧ legalCode s.params (variantField x) c = true ∧
        ∀ c', legalCode s.params (variantField x) c' = true → enumDecode s.params (variantField x) c' = some x →
          c' = c) ∧
    (∀ x ∈ [Variant.idac1Route .reserved, .idac2Route .reserved], exec (.enumEncode x) s =
      .next { s with response := some (.ok (.code (s.params.reservedRoute.setWidth 8))) }) ∧
    ∀ f x, fallbackOf f = some x → exec (.enumEncode x) s = .refused .notAVariant

/-- `ENUM_DECODE`, where it is on the CMD port (D24), completes on every code of an enumerated field: the variant of a
legal code, the fallback otherwise, never a fault; with the default legal sets the fallback comes of (`DATA_RATE`, 7)
alone (R78). -/
def Obligations.EnumDecodeReturnsTheVariantOrTheFallback : Prop :=
  ∀ (s : State) (f : Field) (c : Byte), s.seq = .idle → s.params.exposePrimitives = true →
    f ≠ .reserved0 → c.toNat < 2 ^ fieldWidth f →
    ∃ x, exec (.enumDecode f c) s = .next { s with response := some (.ok (.variant x)) } ∧
      variantField x = f ∧
      (legalCode s.params f c = true → enumEncode s.params x = some c) ∧
      (legalCode s.params f c = false → fallbackOf f = some x) ∧
      (defaultLegalSets s.params → (fallbackOf f = some x ↔ f = .dataRate ∧ c = 7))

/-- R79, both forms: the code written into a field is the code read back. -/
def Obligations.EncodeExtractRoundTrip : Prop :=
  (∀ (f : Field) (cur c : Byte), c.toNat < 2 ^ fieldWidth f → extractField f (encodeField f cur c) = c) ∧
  ∀ (p : Config.Params) (x : Variant) (cur c : Byte), enumEncode p x = some c →
    enumDecode p (variantField x) (extractField (variantField x) (encodeField (variantField x) cur c)) = some x

/-- R80: writing one field leaves every other bit, hence every other field of the register, unchanged. -/
def Obligations.EncodeLeavesTheOtherFields : Prop :=
  ∀ (f : Field) (cur c : Byte), c.toNat < 2 ^ fieldWidth f →
    encodeField f cur c &&& ~~~fieldMask f = cur &&& ~~~fieldMask f ∧
    ∀ g : Field, g ≠ f → fieldReg g = fieldReg f → extractField g (encodeField f cur c) = extractField g cur

/-- R81: overwrite, identity, commutation, reassembly, and the two directions of the enumeration mapping. -/
def Obligations.EncodeOverwriteIdentityCommuteReassemble : Prop :=
  (∀ (f : Field) (cur c1 c2 : Byte), c1.toNat < 2 ^ fieldWidth f → c2.toNat < 2 ^ fieldWidth f →
    encodeField f (encodeField f cur c1) c2 = encodeField f cur c2) ∧
  (∀ (f : Field) (cur : Byte), encodeField f cur (extractField f cur) = cur) ∧
  (∀ (f g : Field) (cur c d : Byte), f ≠ g → fieldReg f = fieldReg g →
    c.toNat < 2 ^ fieldWidth f → d.toNat < 2 ^ fieldWidth g →
    encodeField f (encodeField g cur d) c = encodeField g (encodeField f cur c) d) ∧
  (∀ (a : RegAddr) (v : Byte),
    ((fieldsOf a).map fun f => extractField f v <<< fieldShift f).foldl (· ||| ·) 0 = v) ∧
  (∀ v w : Byte, (decodeReg0 v = decodeReg0 w → v = w) ∧ (decodeReg1 v = decodeReg1 w → v = w) ∧
    (decodeReg2 v = decodeReg2 w → v = w) ∧ (decodeReg3 v = decodeReg3 w → v = w)) ∧
  (∀ (p : Config.Params) (x : Variant) (c : Byte), enumEncode p x = some c → enumDecode p (variantField x) c = some x) ∧
  (∀ (p : Config.Params) (f : Field) (c : Byte), legalCode p f c = true →
    ∃ x, enumDecode p f c = some x ∧ enumEncode p x = some c)

/-- R62: the field descriptor table, the masks computed from width and shift, the masks of each register summing to
`0xFF` and no two sharing a bit. -/
def Obligations.MasksPartitionEachRegister : Prop :=
  (∀ f : Field, (f, fieldReg f, fieldWidth f, fieldShift f, fieldMask f) ∈ descriptorTable) ∧
  (∀ f : Field, (fieldMask f).toNat = (2 ^ fieldWidth f - 1) * 2 ^ fieldShift f) ∧
  (∀ a : RegAddr, ((fieldsOf a).map fun f => (fieldMask f).toNat).sum = 0xFF) ∧
  (∀ f : Field, f ∈ fieldsOf (fieldReg f)) ∧
  ∀ (a : RegAddr) (f g : Field), f ∈ fieldsOf a → g ∈ fieldsOf a → f ≠ g → fieldMask f &&& fieldMask g = 0

/-- R64, R73, R74: with the default parameters (the spec's choice, D9) the typed view of a byte holds the fallback in
one case only, `DATA_RATE` code 7. -/
def Obligations.DefaultTypedViewFallsBackOnlyOnDataRateSeven : Prop :=
  ∀ v : Byte,
    (∀ f ∈ fieldsOf 0, fallbackOf f ∉ typedView0 Config.defaultParams (decodeReg0 v)) ∧
    (∀ f ∈ fieldsOf 1, fallbackOf f ∈ typedView1 Config.defaultParams (decodeReg1 v) ↔ f = .dataRate ∧ 0xE0 ≤ v) ∧
    (∀ f ∈ fieldsOf 2, fallbackOf f ∉ typedView2 Config.defaultParams (decodeReg2 v)) ∧
    (∀ f ∈ fieldsOf 3, fallbackOf f ∉ typedView3 Config.defaultParams (decodeReg3 v))

/-! ### The sample decoder -/

/-- `SDEC`, where it is on the CMD port (D24), completes on all inputs: the word `b0 b1 b2 00` shifted right
arithmetically by 8, which is `sext_24(b0 :: b1 :: b2)` (R112); nothing but the response changes. -/
def Obligations.SdecSignExtendsTheThreeBytes : Prop :=
  ∀ (s : State) (b0 b1 b2 : Byte), s.seq = .idle → s.params.exposePrimitives = true →
    exec (.sdec b0 b1 b2) s =
      .next { s with response := some (.ok (.int32 ((b0 ++ b1 ++ b2 ++ (0 : Byte) : BitVec 32).sshiftRight 8))) } ∧
    (b0 ++ b1 ++ b2 ++ (0 : Byte) : BitVec 32).sshiftRight 8 = (b0 ++ b1 ++ b2 : BitVec 24).signExtend 32

/-- R113: the shift form and the OR form give the same result for every input; bits 23 to 0 of it are `b0 :: b1 :: b2`
and bits 31 to 24 are copies of `b0[7]`. -/
def Obligations.SdecFormsAgree : Prop :=
  ∀ x : Sample,
    let raw : BitVec 32 := (x.b0 ++ x.b1 ++ x.b2 : BitVec 24).setWidth 32
    decodeSample x = (if x.b0.getLsbD 7 then raw ||| 0xFF000000 else raw) ∧
    (decodeSample x).setWidth 24 = x.b0 ++ x.b1 ++ x.b2 ∧
    ∀ k, 24 ≤ k → k ≤ 31 → (decodeSample x).getLsbD k = x.b0.getLsbD 7

/-- R114: range, value, injectivity, every integer of the range reached, bits [31:23] all equal. -/
def Obligations.SdecRangeValueAndInjectivity : Prop :=
  (∀ x : Sample,
    -8388608 ≤ (decodeSample x).toInt ∧ (decodeSample x).toInt ≤ 8388607 ∧
    (let raw := 65536 * x.b0.toNat + 256 * x.b1.toNat + x.b2.toNat
     (decodeSample x).toInt = if raw < 2 ^ 23 then (raw : Int) else (raw : Int) - 2 ^ 24) ∧
    ∀ k, 23 ≤ k → k ≤ 31 → (decodeSample x).getLsbD k = (decodeSample x).getLsbD 31) ∧
  (∀ x y : Sample, (decodeSample x).toInt = (decodeSample y).toInt → x = y) ∧
  ∀ z : Int, -8388608 ≤ z → z ≤ 8388607 → ∃ x : Sample, (decodeSample x).toInt = z

/-! ### The primitives -/

/-- `WREG a, v` completes when the LINK answers `Ok`: one transaction of format `CW`, nothing read first (R84); the
response and `STATUS` are `Ok`, and nothing else changes but the far end: on a trace where it may be said (R136), as R51
says under the responder, a free byte in that register and the others kept under the unconstrained LINK (log 2). -/
def Obligations.WregIssuesOneWrite : Prop :=
  ∀ (s : State) (a : RegAddr) (v : Byte), s.seq = .idle → s.params.exposePrimitives = true → linkOk 1 s →
    ∃ cfg : Regs,
      exec (.wreg a v) s = .next { spent 1 s with
        status := .ok, response := some (.ok .none), trace := s.trace ++ [writeEntry a v], cfg := cfg } ∧
      (answersMeaningful s [writeEntry a v] → cfg = linkWrites 0 s (foundCfg 0 s s.cfg) a v)

/-- `RREG a` completes when the LINK answers `Ok`: one transaction of format `CR`; the byte captured during the dummy
is `RBYTE` and the value returned (R85); on a trace where it may be said (R136) the byte is the register's under the
responder and `CFG` keeps what EXTERNAL left (R41; under the unconstrained LINK that is log 2). -/
def Obligations.RregReturnsTheCapturedByte : Prop :=
  ∀ (s : State) (a : RegAddr), s.seq = .idle → s.params.exposePrimitives = true → linkOk 1 s →
    ∃ (d : Byte) (cfg : Regs),
      exec (.rreg a) s = .next { spent 1 s with
        status := .ok, response := some (.ok (.byte d)), rbyte := d, trace := s.trace ++ [readEntry a d]
        cfg := cfg } ∧
      (answersMeaningful s [readEntry a d] →
        d = linkReads 0 s (foundCfg 0 s s.cfg) a ∧ cfg = foundCfg 0 s s.cfg)

/-- `RESET` and `START` complete when the LINK answers `Ok`: one transaction of format `C` each; no state of the
ENGINE but `TRACE` and `STATUS` changes (R86, R87); the far end, on a trace where it may be said (R136): under the
unconstrained LINK the registers after `RESET` are free and `START` keeps them (log 2). -/
def Obligations.ResetAndStartIssueOneCommand : Prop :=
  ∀ s : State, s.seq = .idle → s.params.exposePrimitives = true → linkOk 1 s →
    (∃ cfg : Regs,
      exec .reset s = .next { spent 1 s with
        status := .ok, response := some (.ok .none), trace := s.trace ++ [resetEntry], cfg := cfg } ∧
      (answersMeaningful s [resetEntry] → cfg = linkResets 0 s)) ∧
    ∃ cfg : Regs,
      exec .start s = .next { spent 1 s with
        status := .ok, response := some (.ok .none), trace := s.trace ++ [startEntry], cfg := cfg } ∧
      (answersMeaningful s [startEntry] → cfg = foundCfg 0 s s.cfg)

/-- `SREAD` completes when the LINK answers `Ok`: one transaction of format `D3` with no command byte; the three bytes,
first received first, are `RXBUF` and the value returned, undecoded (R88). On a trace where it may be said (R136) they
are the next of the responder's stream, which is consumed (R55), or a free draw past its end and under the unconstrained
LINK (R30, log 3), and `CFG` keeps what EXTERNAL left (R14, R55; under the unconstrained LINK that is log 2). -/
def Obligations.SreadReturnsTheThreeBytes : Prop :=
  ∀ s : State, s.seq = .idle → s.params.exposePrimitives = true → linkOk 1 s →
    ∃ (x : Sample) (samples : List Sample) (cfg : Regs),
      exec .sread s = .next { spent 1 s with
        status := .ok, response := some (.ok (.sample x)), rxbuf := x, trace := s.trace ++ [sampleEntry x]
        cfg := cfg, samples := samples } ∧
      (answersMeaningful s [sampleEntry x] →
        x = (linkSample 0 s).1 ∧ samples = (linkSample 0 s).2 ∧ cfg = foundCfg 0 s s.cfg)

/-- R52 (decision D17): under the reference responder a read issued after a write of the same register returns the
written byte, whatever operations stand between the two that do not change that register, unless EXTERNAL stepped in
between (premise: it did not). The trace must be settled (R136). -/
def Obligations.ResponderReadsBackWhatWasWritten : Prop :=
  ∀ (s t t' u : State) (a : RegAddr) (v : Byte) (between : List Instr),
    s.params.link = .responder →
    exec (.wreg a v) s = .next t → t.status = .ok →
    (∀ i ∈ between, mayChange a i = false) → leadsTo between t t' →
    exec (.rreg a) t' = .next u → u.status = .ok →
    (∀ k, 0 < k → k < u.trace.length - s.trace.length → quietAt k s) → resetSettled u.trace = true →
    u.response = some (.ok (.byte v)) ∧ u.rbyte = v ∧ readReg u.cfg a = v

/-! ### The setters -/

/-- The sixteen setters complete when the LINK answers `Ok` twice: a read of the field's register, then a write of the
byte read with exactly the field replaced (R91); only `TMP`, `STATUS`, `TRACE`, the response and the far end change.
That `RBYTE`, written by a direct `RREG` (R18), is not among them is the model's reading (log 11). On a trace where it
may be said (R136) the byte read is the register's under the responder; EXTERNAL may act before each transaction (R138);
under the unconstrained LINK the register written is free and the others keep their bytes (log 2). -/
def Obligations.SettersReadThenWriteBack : Prop :=
  ∀ (s : State) (i : Instr) (f : Field) (c : Byte),
    setterTarget s.params i = some (f, c) → s.seq = .idle → linkOk 2 s →
    ∃ (d : Byte) (cfg : Regs),
      let v := (d &&& ~~~fieldMask f) ||| (c <<< fieldShift f)
      let new := [readEntry (fieldReg f) d, writeEntry (fieldReg f) v]
      exec i s = .next { spent 2 s with
        status := .ok, response := some (.ok .none), tmp := v, trace := s.trace ++ new, cfg := cfg } ∧
      (answersMeaningful s new →
        d = linkReads 0 s (foundCfg 0 s s.cfg) (fieldReg f) ∧
        cfg = linkWrites 1 s (foundCfg 1 s (foundCfg 0 s s.cfg)) (fieldReg f) v)

/-- R45, R138 under the reference responder: a setter that returns `Ok` leaves its field at its code and every other
field of the register as the read found it, so what EXTERNAL did to that register between the two transactions is lost;
the other registers are as EXTERNAL left them. -/
def Obligations.SetterOverwritesExternalChange : Prop :=
  ∀ (s t : State) (i : Instr) (f : Field) (c : Byte),
    setterTarget s.params i = some (f, c) → s.seq = .idle → s.params.link = .responder → linkOk 2 s →
    exec i s = .next t → resetSettled t.trace = true →
    extractField f (readReg t.cfg (fieldReg f)) = c ∧
    (∀ g, g ≠ f → fieldReg g = fieldReg f →
      extractField g (readReg t.cfg (fieldReg f)) =
        extractField g (readReg (foundCfg 0 s s.cfg) (fieldReg f))) ∧
    ∀ a, a ≠ fieldReg f → readReg t.cfg a = readReg (foundCfg 1 s (foundCfg 0 s s.cfg)) a

/-- R107: for the code of a variant, `SET_FIELD_RAW` and the typed setter are the same, faults included. -/
def Obligations.RawSetterEqualsTypedSetter : Prop :=
  ∀ (s : State) (i : Instr) (f : Field) (c : Byte),
    s.params.exposePrimitives = true → setterTarget s.params i = some (f, c) → exec i s = exec (.setFieldRaw f c) s

/-! ### BEGIN, conversion reads, the dump -/

/-- `BEGIN` completes when the LINK answers `Ok` to every transaction: reset, the 50 µs wait, the four default bytes to
registers 0 to 3 in that order, nothing read; `LIFE <- BEGUN` (R108), for both placements of the wait; the far end, on a
trace where it may be said (R136): it is free under the unconstrained LINK (log 2). -/
def Obligations.BeginResetsWaitsAndWritesDefaults : Prop :=
  ∀ s : State, s.seq = .idle →
    (s.params.placement = .ownTransaction → linkOk 6 s →
      ∃ cfg : Regs,
        let new := [resetEntry, postResetWaitEntry, writeEntry 0 0x00, writeEntry 1 0x04, writeEntry 2 0x10,
          writeEntry 3 0x00]
        exec .beginInit s = .next { spent 6 s with
          status := .ok, response := some (.ok .none), life := .begun, trace := s.trace ++ new, cfg := cfg } ∧
        (answersMeaningful s new →
          cfg = linkWrites 5 s (foundCfg 5 s (linkWrites 4 s (foundCfg 4 s (linkWrites 3 s (foundCfg 3 s
            (linkWrites 2 s (foundCfg 2 s (foundCfg 1 s (linkResets 0 s))) 0 0x00)) 1 0x04)) 2 0x10)) 3 0x00)) ∧
    (s.params.placement = .trailing → linkOk 5 s →
      ∃ cfg : Regs,
        let new := [trailingResetEntry, writeEntry 0 0x00, writeEntry 1 0x04, writeEntry 2 0x10, writeEntry 3 0x00]
        exec .beginInit s = .next { spent 5 s with
          status := .ok, response := some (.ok .none), life := .begun, trace := s.trace ++ new, cfg := cfg } ∧
        (answersMeaningful s new →
          cfg = linkWrites 4 s (foundCfg 4 s (linkWrites 3 s (foundCfg 3 s (linkWrites 2 s (foundCfg 2 s
            (linkWrites 1 s (foundCfg 1 s (linkResets 0 s)) 0 0x00)) 1 0x04)) 2 0x10)) 3 0x00))

/-- R26, first row: after a `BEGIN` that completed with `Ok`, with a LINK that stores what is written and no step of
EXTERNAL between its transactions, `CFG` holds the default bytes, whatever it held before. -/
def Obligations.BeginLeavesTheDefaultBytes : Prop :=
  ∀ s t : State, s.params.link = .responder → s.seq = .idle → exec .beginInit s = .next t → t.status = .ok →
    (∀ k, 0 < k → k < 6 → quietAt k s) → resetSettled t.trace = true →
    t.cfg = ⟨0x00, 0x04, 0x10, 0x00⟩ ∧ t.life = .begun

/-- R108, R139, R122 under the reference responder, for both placements of the wait (EXTERNAL quiet, the trace settled):
a `BEGIN` that faults at its step 0, the reset, leaves each register with its old byte or `DEV_RESET`; one that faults
later, at step `k`, has written the defaults to the registers whose write came before, leaves the register of a faulted
write open, and has left the registers above it as the reset did. `LIFE` is unchanged. The write of register `a` is step
`a + 2`, or `a + 1` with the trailing wait. -/
def Obligations.BeginFaultLeavesRegistersPartlyInitialised : Prop :=
  ∀ (s t : State) (k : Nat) (e : TransportError),
    s.params.link = .responder → s.seq = .idle → k < opLength s.params .beginInit → linkOk k s →
    (turnAt k s).fault = some e → (∀ j, j ≤ k → quietAt j s) →
    exec .beginInit s = .next t → resetSettled t.trace = true →
    let stepOf (a : RegAddr) : Nat := if s.params.placement = .trailing then a.toNat + 1 else a.toNat + 2
    t.status = .fault e ∧ t.response = some (.err e) ∧ t.life = s.life ∧
    t.trace.length = s.trace.length + k + 1 ∧
    ∀ a : RegAddr,
      (k = 0 → readReg t.cfg a = readReg s.cfg a ∨ readReg t.cfg a = readReg s.params.devReset a) ∧
      (0 < k → stepOf a < k → readReg t.cfg a = readReg ⟨0x00, 0x04, 0x10, 0x00⟩ a) ∧
      (0 < k → k < stepOf a → readReg t.cfg a = readReg s.params.devReset a) ∧
      (0 < k → stepOf a = k → readReg t.cfg a = readReg (turnAt k s).far a)

/-- `READ_SINGLE_SHOT` completes when the LINK answers `Ok` twice: start/sync, then immediately the sample read, no
register touched; the value is the sign-extended integer of the three bytes received, whatever they are (R109, R137). On
a trace where it may be said (R136) they are the LINK's sample, and `CFG` keeps what EXTERNAL left (under the
unconstrained LINK that is log 2). -/
def Obligations.ReadSingleShotDecodesTheSample : Prop :=
  ∀ s : State, s.seq = .idle → linkOk 2 s →
    ∃ (x : Sample) (samples : List Sample) (cfg : Regs),
      let r : BitVec 32 := (x.b0 ++ x.b1 ++ x.b2 : BitVec 24).signExtend 32
      let new := [startEntry, sampleEntry x]
      exec .readSingleShot s = .next { spent 2 s with
        status := .ok, response := some (.ok (.int32 r)), rxbuf := x, result := r, trace := s.trace ++ new
        samples := samples, cfg := cfg } ∧
      (answersMeaningful s new →
        x = (linkSample 1 s).1 ∧ samples = (linkSample 1 s).2 ∧ cfg = foundCfg 1 s (foundCfg 0 s s.cfg))

/-- `READ_CHANNEL m` completes when the LINK answers `Ok` four times: the mux field is read, modified and written
before the start/sync command, then the sample is read and decoded (R110). That `RBYTE` is unchanged by the inner read
is the model's reading of R18 (log 11). On a trace where it may be said (R136) the byte read and the sample are the
LINK's; under the unconstrained LINK register 0 is free and the others keep their bytes (log 2). -/
def Obligations.ReadChannelSetsTheMuxThenSamples : Prop :=
  ∀ (s : State) (m : Mux) (c : Byte), enumEncode s.params (.mux m) = some c → s.seq = .idle → linkOk 4 s →
    ∃ (d : Byte) (x : Sample) (samples : List Sample) (cfg : Regs),
      let v := (d &&& 0x0F) ||| (c <<< 4)
      let r : BitVec 32 := (x.b0 ++ x.b1 ++ x.b2 : BitVec 24).signExtend 32
      let new := [readEntry 0 d, writeEntry 0 v, startEntry, sampleEntry x]
      exec (.readChannel m) s = .next { spent 4 s with
        status := .ok, response := some (.ok (.int32 r)), tmp := v, rxbuf := x, result := r, trace := s.trace ++ new
        samples := samples, cfg := cfg } ∧
      (answersMeaningful s new →
        d = linkReads 0 s (foundCfg 0 s s.cfg) 0 ∧ x = (linkSample 3 s).1 ∧ samples = (linkSample 3 s).2 ∧
        cfg = foundCfg 3 s (foundCfg 2 s (linkWrites 1 s (foundCfg 1 s (foundCfg 0 s s.cfg)) 0 v)))

/-- R90, R110: `READ_CHANNEL m` is `SET_MUX m` and then `READ_SINGLE_SHOT`, and a fault in the inner part aborts the
whole operation. -/
def Obligations.ReadChannelIsSetMuxThenReadSingleShot : Prop :=
  ∀ (s t : State) (m : Mux), exec (.setMux m) s = .next t →
    (t.status = .ok → exec (.readChannel m) s = exec .readSingleShot t) ∧
    (t.status ≠ .ok → exec (.readChannel m) s = .next t)

/-- `DUMP_REGISTERS` completes when the LINK answers `Ok` four times: four reads in address order, the four bytes
returned raw; nothing is written (R111). That `RBYTE` is unchanged is the model's reading of R18 (log 11). On a trace
where it may be said (R136) the bytes are the LINK's, and `CFG` keeps what EXTERNAL left (under the unconstrained LINK
that is log 2). -/
def Obligations.DumpRegistersReadsInAddressOrder : Prop :=
  ∀ s : State, s.seq = .idle → linkOk 4 s →
    ∃ (d : Regs) (cfg : Regs),
      let new := [readEntry 0 d.r0, readEntry 1 d.r1, readEntry 2 d.r2, readEntry 3 d.r3]
      exec .dumpRegisters s = .next { spent 4 s with
        status := .ok, response := some (.ok (.dump d)), dump := d, trace := s.trace ++ new, cfg := cfg } ∧
      (answersMeaningful s new →
        let c0 := foundCfg 0 s s.cfg
        let c1 := foundCfg 1 s c0
        let c2 := foundCfg 2 s c1
        let c3 := foundCfg 3 s c2
        d = ⟨linkReads 0 s c0 0, linkReads 1 s c1 1, linkReads 2 s c2 2, linkReads 3 s c3 3⟩ ∧ cfg = c3)

/-! ### The transport fault -/

/-- R120, R121: an operation reports the fault of the first transaction that fails: the failed one is the last of the
trace, the later ones are not issued, `STATUS <- Fault(e)`, `SEQ` is `IDLE`, `Err(e)` is returned unmodified with no
value, `LIFE` is unchanged. -/
def Obligations.FirstFaultAbortsTheOperation : Prop :=
  ∀ (i : Instr) (s : State) (k : Nat) (e : TransportError),
    i.invocable s.params = true → s.seq = .idle → k < opLength s.params i → linkOk k s →
    (turnAt k s).fault = some e →
    ∃ t new last, exec i s = .next t ∧ t.trace = s.trace ++ new ++ [last] ∧ new.length = k ∧
      (∀ x ∈ new, x.error = none) ∧ last.error = some e ∧ last.captured = [] ∧
      t.status = .fault e ∧ t.seq = .idle ∧ t.response = some (.err e) ∧ t.life = s.life ∧
      t.script = (spent (k + 1) s).script ∧ t.draws = (spent (k + 1) s).draws

/-- R20, R21, R89: when every transaction returns `Ok` the operation issues exactly `len(op)` of them, returns `Ok` and
leaves `STATUS = Ok` and `SEQ = IDLE`; a pure function unit issues none and does not write `STATUS`. -/
def Obligations.EveryTransactionOkCompletesTheOperation : Prop :=
  ∀ (i : Instr) (s : State), i.invocable s.params = true → s.seq = .idle → linkOk (opLength s.params i) s →
    ∃ t new v, exec i s = .next t ∧ t.trace = s.trace ++ new ∧ new.length = opLength s.params i ∧
      (∀ x ∈ new, x.error = none) ∧ t.seq = .idle ∧ t.response = some (.ok v) ∧
      t.status = (if opLength s.params i = 0 then s.status else .ok)

/-- R122 (decision D18): the far end after a faulted primitive that HOST invoked, EXTERNAL's steps before it apart, on
a trace where it may be said (R136); a faulted `RREG` or `SREAD` does not write `RBYTE` or `RXBUF` (log 22). The same
after a faulted transaction in the middle of any operation, taken as one step. -/
def Obligations.FaultedTransactionFarEnd : Prop :=
  (∀ (s : State) (e : TransportError), s.seq = .idle → s.params.exposePrimitives = true →
    (turnAt 0 s).fault = some e →
    (∀ a v t, exec (.wreg a v) s = .next t → answersMeaningful s [failed (writeEntry a v) e] →
      ∀ b, b ≠ a → readReg t.cfg b = readReg (foundCfg 0 s s.cfg) b) ∧
    (∀ a t, exec (.rreg a) s = .next t →
      t.rbyte = s.rbyte ∧ (answersMeaningful s [failed (readEntry a 0) e] → t.cfg = foundCfg 0 s s.cfg)) ∧
    (∀ t, exec .start s = .next t → answersMeaningful s [failed startEntry e] → t.cfg = foundCfg 0 s s.cfg) ∧
    (∀ t, exec .sread s = .next t →
      t.rxbuf = s.rxbuf ∧ (answersMeaningful s [failed (sampleEntry ⟨0, 0, 0⟩) e] → t.cfg = foundCfg 0 s s.cfg)) ∧
    (∀ t, exec .reset s = .next t → answersMeaningful s [failed resetEntry e] → ∀ b,
      readReg t.cfg b = readReg (foundCfg 0 s s.cfg) b ∨ readReg t.cfg b = readReg s.params.devReset b)) ∧
  ∀ (s t : State) (op : Instr) (k : Nat) (e : TransportError),
    s.seq = .busy op k → (turnAt 0 s).fault = some e → step s = .next t →
    ∃ f : Frame, t.trace = s.trace ++ [⟨f.subOps, [], some e⟩] ∧
      (answersMeaningful s [⟨f.subOps, [], some e⟩] →
        farEndAfterFault s.params (foundCfg 0 s s.cfg) t.cfg f)

/-- R49: "Whether the ENGINE has a step never depends on the LINK's choice": given that the LINK returns at all, the
premise `LINK_RETURNS` of R124 and D19 that the model follows (log 13), an operation HOST may present completes or
aborts whatever `Ok` or `Err` the LINK chooses, and leaves `SEQ` at `IDLE`. -/
def Obligations.InvocableOperationsAlwaysHaveAStep : Prop :=
  ∀ (i : Instr) (s : State), i.invocable s.params = true → s.seq = .idle →
    ∃ t, exec i s = .next t ∧ t.seq = .idle

/-- R118: operands outside their types are refused, each by its own name: (2) a wide code, (3) a variant with no code,
(4) `RESERVED0`, (7) what is not exposed, the pure function units among it (D24). The model's choices in it: which name
is given where two grounds hold, a wide code of `ENUM_DECODE RESERVED0` and of `SET_FIELD_RAW RESERVED0` and an
operation not exposed among them (log 14); that `ENUM_DECODE RESERVED0` is refused at all (log 15); that a label outside
`LEGAL[F]` is refused as no variant (log 16). -/
def Obligations.OperandsOutsideTheirTypesAreRefused : Prop :=
  ∀ s : State, s.seq = .idle →
    (∀ f cur c, s.params.exposePrimitives = true → 2 ^ fieldWidth f ≤ c.toNat →
      exec (.encode f cur c) s = .refused .codeTooWide) ∧
    (∀ f c, s.params.exposePrimitives = true → 2 ^ fieldWidth f ≤ c.toNat →
      exec (.enumDecode f c) s = .refused .codeTooWide) ∧
    (∀ f c, s.params.exposePrimitives = true → f ≠ .reserved0 → 2 ^ fieldWidth f ≤ c.toNat →
      exec (.setFieldRaw f c) s = .refused .codeTooWide) ∧
    (∀ c, s.params.exposePrimitives = true → exec (.setFieldRaw .reserved0 c) s = .refused .reservedField) ∧
    (∀ i x, (i.needsExposure = true → s.params.exposePrimitives = true) → variantOperand i = some x →
      enumEncode s.params x = none → exec i s = .refused .notAVariant) ∧
    (∀ f x, fallbackOf f = some x → enumEncode s.params x = none) ∧
    (s.params.exposePrimitives = false → ∀ i : Instr, i.needsExposure = true → exec i s = .refused .notExposed) ∧
    ∀ i : Instr, i.invocable s.params = false → ∃ r, exec i s = .refused r

/-- R21, R118 (5), R140: an invocation while `SEQ` is not `IDLE` is refused, whatever the operation. That it is refused as
busy where a second ground holds too (a wide code, no variant, `RESERVED0`, not exposed) is the model's choice (log 14).
-/
def Obligations.BusyPortRefusesEveryInvocation : Prop :=
  ∀ (i j : Instr) (k : Nat) (s : State), s.seq = .busy j k → exec i s = .refused .busy

/-- R116, R117: no operation stops the machine with a fault; a step does so only in a state whose `SEQ` is outside its
expansion (R21), which is no state of the block. -/
def Obligations.OnlyAnImpossibleSequencerPositionFaults : Prop :=
  (∀ (i : Instr) (s : State) (r : Fault), exec i s ≠ .fault r) ∧
  ∀ (s : State) (r : Fault), step s = .fault r → ¬ seqInRange s

/-! ### The machine as a whole -/

/-- The invariant: `SEQ` is `IDLE` or inside its expansion with its earlier transactions `Ok` (R21), and every recorded
transaction is in a format of R57 with the right number of captured bytes (R35). Every step keeps it. -/
def Obligations.StepKeepsTheInvariant : Prop :=
  ∀ s t : State, Inv s → step s = .next t → Inv t

/-- The invariant holds right after construction. -/
def Obligations.ResetHasTheInvariant : Prop := Inv State.reset

/-- R27: `SEQ = IDLE`, `LIFE = CONSTRUCTED`, `TRACE = []`; construction has issued no transaction. That HOST has
presented nothing on the CMD port yet is the model's choice for a field of its own (log 8). -/
def Obligations.ConstructionState : Prop :=
  State.reset.seq = .idle ∧ State.reset.life = .constructed ∧ State.reset.trace = [] ∧ State.reset.cmd = []

/-- R23, R25: a step never changes the parameters and only appends to `TRACE`. -/
def Obligations.StepAppendsToTraceAndKeepsParameters : Prop :=
  ∀ s t : State, step s = .next t → t.params = s.params ∧ ∃ new, t.trace = s.trace ++ new

/-- R22: `LIFE` is `CONSTRUCTED` at reset and becomes `BEGUN` when a `BEGIN` completes with `Ok`, run at once or resumed
in its middle; a `BEGIN` that faults leaves it, no other operation writes it, and no operation reads it. -/
def Obligations.LifeChangesOnlyWhenBeginCompletes : Prop :=
  State.reset.life = .constructed ∧
  (∀ (i : Instr) (s t : State), exec i s = .next t →
    t.life = (if i = .beginInit ∧ t.status = .ok then .begun else s.life) ∧
    ∀ l : Life, ∃ t', exec i { s with life := l } = .next t' ∧ t'.trace = t.trace ∧ t'.response = t.response ∧
      t'.status = t.status ∧ t'.cfg = t.cfg ∧ t'.samples = t.samples) ∧
  (∀ s t : State, step s = .next t → t.life ≠ s.life →
    t.life = .begun ∧ t.status = .ok ∧ t.seq = .idle ∧
    ((∃ k, s.seq = .busy .beginInit k) ∨ (s.seq = .idle ∧ ∃ cs, s.cmd = .named .beginInit :: cs))) ∧
  ∀ (s t : State) (k : Nat), s.seq = .busy .beginInit k → step s = .next t → t.seq = .idle →
    t.life = if t.status = .ok then .begun else s.life

/-- R18, R20, R22, R23: no operation reads `LIFE`, `STATUS`, a datapath register it has not written, `TRACE` or an
earlier response: two states that differ only in these answer a next state together, use the same choices of the
environment and issue as many transactions with the same outcomes; where the LINK's answers may be spoken of on both
traces (R136), the new transactions, the response and the far end are the same. -/
def Obligations.UnreadStateDoesNotMatter : Prop :=
  ∀ (i : Instr) (s u t : State), exec i s = .next t →
    ∃ t' new new', exec i (withUnread s u) = .next t' ∧
      t.trace = s.trace ++ new ∧ t'.trace = u.trace ++ new' ∧
      new'.map (fun x => x.error) = new.map (fun x => x.error) ∧
      t'.script = t.script ∧ t'.draws = t.draws ∧ t'.seq = t.seq ∧
      (answersMeaningful s new → answersMeaningful (withUnread s u) new' →
        new' = new ∧ t'.response = t.response ∧ t'.cfg = t.cfg ∧ t'.samples = t.samples)

/-- A step of an `IDLE` ENGINE runs the operation HOST presents next on the state with the command taken off the CMD
port (D2, R133). The model's choices in it: that the port is a list, and that a primitive may be presented as its
command bytes, where R70 gives the port no binary encoding (log 9); that bytes behind the primitive are dropped (log
18). -/
def Obligations.StepRunsThePresentedOperation : Prop :=
  ∀ (s : State) (i : Instr) (cs : List Command), s.seq = .idle →
    (s.cmd = .named i :: cs → step s = exec i { s with cmd := cs }) ∧
    (∀ bytes rest, decode bytes = .ok (i, rest) → s.cmd = .wire bytes :: cs → step s = exec i { s with cmd := cs })

/-- R133: "`SEQ = IDLE` and the ENGINE does nothing until HOST invokes an operation"; that the step then answers the
same state is the model's choice (log 21). -/
def Obligations.IdleEngineWaitsForHost : Prop :=
  ∀ s : State, s.seq = .idle → s.cmd = [] → step s = .next s

/-- R21, R90: running an operation at once is the same as invoking it and then taking its transactions one step at a
time; the number of steps is the number of transactions it issued, at most six. That `exec` runs an operation at once is
the model's choice (log 10). -/
def Obligations.OperationIsItsTransactionsOneByOne : Prop :=
  ∀ (i : Instr) (s t : State), 0 < opLength s.params i → exec i s = .next t →
    t.trace.length - s.trace.length ≤ 6 ∧
    Host.Core.run Sys2Proof.core (t.trace.length - s.trace.length) (invoke i s) = .next t

/-- R46: with `EXTERNAL_INTERFERENCE` disabled EXTERNAL has no step: every transaction, scripted or not, finds `CFG` as
the one before left it, and what the script says of EXTERNAL makes no difference to any operation. -/
def Obligations.DisabledExternalHasNoStep : Prop :=
  ∀ s : State, s.params.externalInterference = false →
    (∀ (f : Frame) (u : State), u.params = s.params →
      replyTo f u = linkReply u.params (currentTurn u) f u.cfg u.samples) ∧
    (∀ (k : Nat) (cfg : Regs), foundCfg k s cfg = cfg) ∧
    ∀ (i : Instr) (turns : List Turn), s.script = turns →
      exec i { s with script := turns.map fun t => { t with external := [] } } =
        match exec i s with
        | .next t => .next { t with script := t.script.map fun t => { t with external := [] } }
        | .fault r => .fault r
        | .refused r => .refused r

/-! ### The post-reset settle -/

/-- R136: `BEGIN` keeps `ResetSettled` true under either placement of the wait, however far it gets; completed with
`Ok` it leaves no reset waiting, so any transaction may follow. -/
def Obligations.BeginKeepsResetSettled : Prop :=
  ∀ s t : State, resetWaitedOut s.trace = true → exec .beginInit s = .next t →
    resetSettled t.trace = true ∧ (t.status = .ok → resetWaitedOut t.trace = true)

/-- R136: a directly invoked `RESET` followed by any other operation with bus traffic makes `ResetSettled` false, and
no later transaction makes it true again. -/
def Obligations.DirectResetThenTrafficIsUnsettled : Prop :=
  ∀ (i : Instr) (s t u : State), exec .reset s = .next t → 0 < opLength s.params i → exec i t = .next u →
    ∀ later, resetSettled (u.trace ++ later) = false

/-! ### Partial failure, and the sequencer in the middle of an operation -/

/-- R139: an operation of several transactions that faults is not rolled back. A setter that faults at its read has
read nothing and written nothing; one that faults at its write has read, and its register alone is open; a
`READ_CHANNEL` that faults at its step 2 or 3 has changed `MUX`, which stays changed; a `READ_SINGLE_SHOT` that faults
at its sample read has started the conversion, and neither it, nor one that faults at its start, nor a
`DUMP_REGISTERS` that faults at any of its reads has changed `CFG`. What is said of `CFG` is said on a trace where it
may be (R136), and is log 2's under the unconstrained LINK; `TMP`, `RXBUF`, `RESULT` and `DUMP` after the fault are
log 22's, `RBYTE` log 11's. -/
def Obligations.PartialFailureIsNotRolledBack : Prop :=
  (∀ (s : State) (i : Instr) (f : Field) (c : Byte) (e : TransportError),
    setterTarget s.params i = some (f, c) → s.seq = .idle →
    let a := fieldReg f
    ((turnAt 0 s).fault = some e →
      ∃ cfg : Regs,
        exec i s = .next { spent 1 s with
          status := .fault e, response := some (.err e), trace := s.trace ++ [failed (readEntry a 0) e], cfg := cfg } ∧
        (answersMeaningful s [failed (readEntry a 0) e] → cfg = foundCfg 0 s s.cfg)) ∧
    (linkOk 1 s → (turnAt 1 s).fault = some e →
      ∃ (d : Byte) (cfg : Regs),
        let v := (d &&& ~~~fieldMask f) ||| (c <<< fieldShift f)
        let new := [readEntry a d, failed (writeEntry a v) e]
        exec i s = .next { spent 2 s with
          status := .fault e, response := some (.err e), tmp := v, trace := s.trace ++ new, cfg := cfg } ∧
        (answersMeaningful s new →
          d = linkReads 0 s (foundCfg 0 s s.cfg) a ∧
          ∀ b, b ≠ a → readReg cfg b = readReg (foundCfg 1 s (foundCfg 0 s s.cfg)) b))) ∧
  (∀ (s t : State) (m : Mux) (c : Byte) (k : Nat) (e : TransportError),
    enumEncode s.params (.mux m) = some c → s.params.link = .responder → s.seq = .idle → k = 2 ∨ k = 3 →
    linkOk k s → (turnAt k s).fault = some e → (∀ j, 2 ≤ j → j ≤ k → quietAt j s) →
    exec (.readChannel m) s = .next t → resetSettled t.trace = true →
    t.status = .fault e ∧ t.response = some (.err e) ∧ t.trace.length = s.trace.length + k + 1 ∧
    extractField .mux (readReg t.cfg 0) = c ∧
    (∀ g, g ≠ .mux → fieldReg g = 0 →
      extractField g (readReg t.cfg 0) = extractField g (readReg (foundCfg 0 s s.cfg) 0)) ∧
    ∀ a, a ≠ 0 → readReg t.cfg a = readReg (foundCfg 1 s (foundCfg 0 s s.cfg)) a) ∧
  (∀ (s : State) (e : TransportError), s.seq = .idle → (turnAt 0 s).fault = some e →
    ∃ cfg : Regs,
      exec .readSingleShot s = .next { spent 1 s with
        status := .fault e, response := some (.err e), trace := s.trace ++ [failed startEntry e], cfg := cfg } ∧
      (answersMeaningful s [failed startEntry e] → cfg = foundCfg 0 s s.cfg)) ∧
  (∀ (s : State) (e : TransportError), s.seq = .idle → linkOk 1 s → (turnAt 1 s).fault = some e →
    ∃ t, exec .readSingleShot s = .next t ∧ t.status = .fault e ∧ t.response = some (.err e) ∧
      t.trace = s.trace ++ [startEntry, failed (sampleEntry ⟨0, 0, 0⟩) e] ∧
      t.rxbuf = s.rxbuf ∧ t.result = s.result ∧
      (answersMeaningful s [startEntry, failed (sampleEntry ⟨0, 0, 0⟩) e] →
        t.cfg = foundCfg 1 s (foundCfg 0 s s.cfg))) ∧
  ∀ (s : State) (k : Nat) (e : TransportError), s.seq = .idle → k < 4 → linkOk k s → (turnAt k s).fault = some e →
    ∃ t, exec .dumpRegisters s = .next t ∧ t.status = .fault e ∧ t.response = some (.err e) ∧
      t.trace.length = s.trace.length + k + 1 ∧ t.rbyte = s.rbyte ∧
      (∀ a : RegAddr, k ≤ a.toNat → readReg t.dump a = readReg s.dump a) ∧
      ((s.params.link = .responder → resetSettled t.trace = true) → t.cfg = cfgAfterExternals (k + 1) s)

/-- R21: a step of an ENGINE at `(op, k)` issues one transaction; answered `Ok` it leaves `SEQ` at `(op, k + 1)` while
`k + 1 < len(op)` and at `IDLE` with `STATUS = Ok` otherwise, answered `Err(e)` at `IDLE` with `STATUS = Fault(e)`: the
position never goes back and never skips. -/
def Obligations.SequencerAdvancesByOneTransaction : Prop :=
  ∀ (s : State) (op : Instr) (k : Nat),
    op.invocable s.params = true → s.seq = .busy op k → k < opLength s.params op →
    ∃ t x, step s = .next t ∧ t.trace = s.trace ++ [x] ∧ x.error = (turnAt 0 s).fault ∧
      ((turnAt 0 s).fault = none → k + 1 < opLength s.params op → t.seq = .busy op (k + 1)) ∧
      ((turnAt 0 s).fault = none → opLength s.params op ≤ k + 1 →
        t.seq = .idle ∧ t.status = .ok ∧ ∃ v, t.response = some (.ok v)) ∧
      ∀ e, (turnAt 0 s).fault = some e → t.seq = .idle ∧ t.status = .fault e ∧ t.response = some (.err e)
end

