-- ==== Sys2Proof/Laws/Operands.lean ====
section
/-! SUPPORT. Field codes bit by bit (R71, R72), the sample decoder's arithmetic (R112), and the two directions of the
enumeration mapping (R77, R78). -/

namespace Sys2Proof.Machine

theorem byte_ext {a b : Byte} (h : ∀ i, i < 8 → a.getLsbD i = b.getLsbD i) : a = b :=
  BitVec.eq_of_getLsbD_eq fun i hi => h i hi

/-- A field lies inside the byte: `shift_F + w_F <= 8` (R115). -/
theorem field_inside (f : Field) : fieldShift f + fieldWidth f ≤ 8 := by cases f <;> decide

/-- The mask has exactly the field's bits (R62). -/
theorem fieldMask_bit (f : Field) (i : Nat) :
    (fieldMask f).getLsbD i = decide (fieldShift f ≤ i ∧ i < fieldShift f + fieldWidth f) := by
  by_cases hi : i < 8
  · have key : ∀ (f : Field) (i : Fin 8), (fieldMask f).getLsbD i =
        decide (fieldShift f ≤ i ∧ i < fieldShift f + fieldWidth f) := by
      intro f; cases f <;> decide
    exact key f ⟨i, hi⟩
  · have := field_inside f
    rw [BitVec.getLsbD_of_ge _ _ (by omega)]
    simp; omega

/-- A code of `w_F` bits has no bit above them. -/
theorem code_bit_high {f : Field} {c : Byte} (h : c.toNat < 2 ^ fieldWidth f) {i : Nat} (hi : fieldWidth f ≤ i) :
    c.getLsbD i = false :=
  Nat.testBit_lt_two_pow (Nat.lt_of_lt_of_le h (Nat.pow_le_pow_right (by decide) hi))

/-- `ENCODE`, bit by bit: the code inside the field, the current byte outside it. -/
theorem encodeField_bit {f : Field} {cur c : Byte} (h : c.toNat < 2 ^ fieldWidth f) {i : Nat} (hi : i < 8) :
    (encodeField f cur c).getLsbD i =
      if fieldShift f ≤ i ∧ i < fieldShift f + fieldWidth f then c.getLsbD (i - fieldShift f) else cur.getLsbD i := by
  simp only [encodeField, BitVec.getLsbD_or, BitVec.getLsbD_and, BitVec.getLsbD_not, fieldMask_bit,
    BitVec.getLsbD_shiftLeft]
  by_cases h1 : fieldShift f ≤ i
  · by_cases h2 : i < fieldShift f + fieldWidth f
    · simp [h1, h2, hi]
    · have := code_bit_high h (i := i - fieldShift f) (by omega)
      simp [h1, h2, hi, this]
  · simp [h1, hi]

/-- `EXTRACT`, bit by bit. -/
theorem extractField_bit (f : Field) (v : Byte) (i : Nat) :
    (extractField f v).getLsbD i = (decide (i < fieldWidth f) && v.getLsbD (fieldShift f + i)) := by
  simp only [extractField, BitVec.getLsbD_ushiftRight, BitVec.getLsbD_and, fieldMask_bit]
  by_cases h : i < fieldWidth f
  · simp [h]
  · simp [h]

/-- `EXTRACT` yields a code of `w_F` bits. -/
theorem extractField_lt (f : Field) (v : Byte) : (extractField f v).toNat < 2 ^ fieldWidth f := by
  apply Nat.lt_pow_two_of_testBit
  intro i hi
  have := extractField_bit f v i
  rw [show (extractField f v).toNat.testBit i = (extractField f v).getLsbD i from rfl, this]
  simp; omega

/-- The code written is the code read (R79). -/
theorem extractField_encodeField {f : Field} {cur c : Byte} (h : c.toNat < 2 ^ fieldWidth f) :
    extractField f (encodeField f cur c) = c := by
  apply byte_ext
  intro i hi
  have := field_inside f
  rw [extractField_bit]
  by_cases hw : i < fieldWidth f
  · rw [encodeField_bit h (by omega)]; simp [hw]
  · rw [code_bit_high h (by omega)]; simp [hw]

/-- Different fields of one register do not overlap (R15). -/
theorem fields_disjoint : ∀ f g : Field, f ≠ g → fieldReg f = fieldReg g →
    fieldShift f + fieldWidth f ≤ fieldShift g ∨ fieldShift g + fieldWidth g ≤ fieldShift f := by
  intro f g; cases f <;> cases g <;> decide

/-- Writing one field leaves another of the same register (R80). -/
theorem extractField_encodeField_other {f g : Field} {cur c : Byte} (h : c.toNat < 2 ^ fieldWidth f) (hne : g ≠ f)
    (hr : fieldReg g = fieldReg f) : extractField g (encodeField f cur c) = extractField g cur := by
  apply byte_ext
  intro i hi
  have h1 := fields_disjoint g f hne hr
  have h2 := field_inside g
  rw [extractField_bit, extractField_bit]
  by_cases hw : i < fieldWidth g
  · rw [encodeField_bit h (by omega), if_neg (by omega)]
  · simp [hw]

/-! ### The sample decoder -/

/-- `SDEC` is the sign extension of the 24 bits (R112). -/
theorem decodeSample_eq (x : Sample) : decodeSample x = (x.b0 ++ x.b1 ++ x.b2 : BitVec 24).signExtend 32 := by
  obtain ⟨a, b, c⟩ := x
  apply BitVec.eq_of_getLsbD_eq
  intro i hi
  simp only [decodeSample, sampleWord, BitVec.getLsbD_sshiftRight, BitVec.getLsbD_signExtend, BitVec.getLsbD_or,
    BitVec.getLsbD_shiftLeft, BitVec.getLsbD_setWidth, BitVec.getLsbD_append, BitVec.msb_eq_getLsbD_last]
  interval_cases i <;> simp

/-- The unsigned value of the three bytes, first byte highest (R63). -/
theorem rawSample_toNat (x : Sample) :
    (x.b0 ++ x.b1 ++ x.b2 : BitVec 24).toNat = 65536 * x.b0.toNat + 256 * x.b1.toNat + x.b2.toNat := by
  have h2 := x.b2.isLt
  have h1 := x.b1.isLt
  rw [show (x.b0 ++ x.b1 ++ x.b2 : BitVec 24).toNat = _ from BitVec.toNat_append _ _, BitVec.toNat_append,
    ← Nat.shiftLeft_add_eq_or_of_lt h1, ← Nat.shiftLeft_add_eq_or_of_lt h2, Nat.shiftLeft_eq, Nat.shiftLeft_eq]
  omega

/-! ### The enumeration mapping -/

/-- The code of a variant fits its field and is legal. -/
theorem legal_of_enumEncode {p : Config.Params} {x : Variant} {c : Byte} (h : enumEncode p x = some c) :
    legalCode p (variantField x) c = true ∧ variantLabel p x = some c := by
  unfold enumEncode at h
  split at h
  · split at h
    · cases h; exact ⟨by assumption, by assumption⟩
    · cases h
  · cases h

/-- A legal code fits its field. -/
theorem fits_of_legal {p : Config.Params} {f : Field} {c : Byte} (h : legalCode p f c = true) :
    c.toNat < 2 ^ fieldWidth f := by
  unfold legalCode at h
  simp only [Bool.and_eq_true] at h
  simpa [codeFits] using h.1

/-- The label of a routing code is the routing label of it. -/
theorem routeOf_routeLabel {r : BitVec 3} {x : Route} {c : Byte} (h : routeLabel r x = some c) : routeOf r c = x := by
  revert h
  cases x <;> simp only [routeLabel, routeLabel.numbered] <;> intro h
  case reserved => cases h; simp [routeOf]
  case unrecognized => cases h
  all_goals
    split at h
    · cases h
    · next hne => cases h; simp only [routeOf, if_neg hne]; rfl

theorem muxOf_muxLabel {x : Mux} {c : Byte} (h : muxLabel x = some c) : muxOf c = x := by
  cases x <;> cases h <;> rfl

theorem gainOf_gainLabel {x : Gain} {c : Byte} (h : gainLabel x = some c) : gainOf c = x := by
  cases x <;> cases h <;> rfl

theorem oneBitOf_oneBitLabel {x : OneBit} {c : Byte} (h : oneBitLabel x = some c) : oneBitOf c = x := by
  cases x <;> cases h <;> rfl

theorem twoBitOf_twoBitLabel {x : TwoBit} {c : Byte} (h : twoBitLabel x = some c) : twoBitOf c = x := by
  cases x <;> cases h <;> rfl

theorem threeBitOf_threeBitLabel {x : ThreeBit} {c : Byte} (h : threeBitLabel x = some c) : threeBitOf c = x := by
  cases x <;> cases h <;> rfl

/-- Decoding the code of a variant gives the variant (R81 (5)). -/
theorem enumDecode_enumEncode {p : Config.Params} {x : Variant} {c : Byte} (h : enumEncode p x = some c) :
    enumDecode p (variantField x) c = some x := by
  obtain ⟨hl, hc⟩ := legal_of_enumEncode h
  cases x <;> simp only [variantLabel] at hc <;> simp only [variantField] at hl ⊢ <;>
    simp only [enumDecode, hl, ↓reduceIte] <;> first
    | rw [muxOf_muxLabel hc] | rw [gainOf_gainLabel hc] | rw [oneBitOf_oneBitLabel hc]
    | rw [twoBitOf_twoBitLabel hc] | rw [threeBitOf_threeBitLabel hc] | rw [routeOf_routeLabel hc]

theorem muxLabel_muxOf : ∀ c : Byte, c.toNat < 16 → muxLabel (muxOf c) = some c := by decide
theorem gainLabel_gainOf : ∀ c : Byte, c.toNat < 8 → gainLabel (gainOf c) = some c := by decide
theorem oneBitLabel_oneBitOf : ∀ c : Byte, c.toNat < 2 → oneBitLabel (oneBitOf c) = some c := by decide
theorem twoBitLabel_twoBitOf : ∀ c : Byte, c.toNat < 4 → twoBitLabel (twoBitOf c) = some c := by decide
theorem threeBitLabel_threeBitOf : ∀ c : Byte, c.toNat < 8 → threeBitLabel (threeBitOf c) = some c := by decide

theorem routeLabel_routeOf : ∀ (r : BitVec 3) (c : Byte), c.toNat < 8 → routeLabel r (routeOf r c) = some c := by
  decide

/-- Encoding the variant of a legal code gives the code back (R81 (5)). -/
theorem enumEncode_enumDecode {p : Config.Params} {f : Field} {c : Byte} (h : legalCode p f c = true) :
    ∃ x, enumDecode p f c = some x ∧ variantField x = f ∧ enumEncode p x = some c := by
  have hf := fits_of_legal h
  cases f <;> simp only [fieldWidth] at hf <;> simp only [enumDecode, h, ↓reduceIte] <;>
    (first | (refine ⟨_, rfl, rfl, ?_⟩) | simp [legalCode] at h) <;>
    simp only [enumEncode, variantLabel, variantField] <;> first
    | rw [muxLabel_muxOf c hf] | rw [gainLabel_gainOf c hf] | rw [oneBitLabel_oneBitOf c hf]
    | rw [twoBitLabel_twoBitOf c hf] | rw [threeBitLabel_threeBitOf c hf] | rw [routeLabel_routeOf _ c hf]
  all_goals simp only [h, ↓reduceIte]

end Sys2Proof.Machine
end

