-- ==== Sys2Proof/Laws/State.lean ====
section
/-! SUPPORT. One lemma per field of State for each shared update: what it writes and what it leaves. -/

namespace Sys2Proof.Machine

/-! `setStatusOk` -/

@[simp] theorem setStatusOk_seq (s : State) : (setStatusOk s).seq = s.seq := rfl
@[simp] theorem setStatusOk_life (s : State) : (setStatusOk s).life = s.life := rfl
@[simp] theorem setStatusOk_status (s : State) : (setStatusOk s).status = .ok := rfl
@[simp] theorem setStatusOk_tmp (s : State) : (setStatusOk s).tmp = s.tmp := rfl
@[simp] theorem setStatusOk_rxbuf (s : State) : (setStatusOk s).rxbuf = s.rxbuf := rfl
@[simp] theorem setStatusOk_result (s : State) : (setStatusOk s).result = s.result := rfl
@[simp] theorem setStatusOk_dump (s : State) : (setStatusOk s).dump = s.dump := rfl
@[simp] theorem setStatusOk_rbyte (s : State) : (setStatusOk s).rbyte = s.rbyte := rfl
@[simp] theorem setStatusOk_trace (s : State) : (setStatusOk s).trace = s.trace := rfl
@[simp] theorem setStatusOk_cfg (s : State) : (setStatusOk s).cfg = s.cfg := rfl
@[simp] theorem setStatusOk_samples (s : State) : (setStatusOk s).samples = s.samples := rfl
@[simp] theorem setStatusOk_params (s : State) : (setStatusOk s).params = s.params := rfl
@[simp] theorem setStatusOk_cmd (s : State) : (setStatusOk s).cmd = s.cmd := rfl
@[simp] theorem setStatusOk_response (s : State) : (setStatusOk s).response = s.response := rfl
@[simp] theorem setStatusOk_script (s : State) : (setStatusOk s).script = s.script := rfl
@[simp] theorem setStatusOk_draws (s : State) : (setStatusOk s).draws = s.draws := rfl

/-! `setStatusFault` -/

@[simp] theorem setStatusFault_seq (e : TransportError) (s : State) : (setStatusFault e s).seq = s.seq := rfl
@[simp] theorem setStatusFault_life (e : TransportError) (s : State) : (setStatusFault e s).life = s.life := rfl
@[simp] theorem setStatusFault_status (e : TransportError) (s : State) : (setStatusFault e s).status = .fault e := rfl
@[simp] theorem setStatusFault_tmp (e : TransportError) (s : State) : (setStatusFault e s).tmp = s.tmp := rfl
@[simp] theorem setStatusFault_rxbuf (e : TransportError) (s : State) : (setStatusFault e s).rxbuf = s.rxbuf := rfl
@[simp] theorem setStatusFault_result (e : TransportError) (s : State) : (setStatusFault e s).result = s.result := rfl
@[simp] theorem setStatusFault_dump (e : TransportError) (s : State) : (setStatusFault e s).dump = s.dump := rfl
@[simp] theorem setStatusFault_rbyte (e : TransportError) (s : State) : (setStatusFault e s).rbyte = s.rbyte := rfl
@[simp] theorem setStatusFault_trace (e : TransportError) (s : State) : (setStatusFault e s).trace = s.trace := rfl
@[simp] theorem setStatusFault_cfg (e : TransportError) (s : State) : (setStatusFault e s).cfg = s.cfg := rfl
@[simp] theorem setStatusFault_samples (e : TransportError) (s : State) : (setStatusFault e s).samples = s.samples := rfl
@[simp] theorem setStatusFault_params (e : TransportError) (s : State) : (setStatusFault e s).params = s.params := rfl
@[simp] theorem setStatusFault_cmd (e : TransportError) (s : State) : (setStatusFault e s).cmd = s.cmd := rfl
@[simp] theorem setStatusFault_response (e : TransportError) (s : State) : (setStatusFault e s).response = s.response := rfl
@[simp] theorem setStatusFault_script (e : TransportError) (s : State) : (setStatusFault e s).script = s.script := rfl
@[simp] theorem setStatusFault_draws (e : TransportError) (s : State) : (setStatusFault e s).draws = s.draws := rfl

/-! `setLifeBegun` -/

@[simp] theorem setLifeBegun_seq (s : State) : (setLifeBegun s).seq = s.seq := rfl
@[simp] theorem setLifeBegun_life (s : State) : (setLifeBegun s).life = .begun := rfl
@[simp] theorem setLifeBegun_status (s : State) : (setLifeBegun s).status = s.status := rfl
@[simp] theorem setLifeBegun_tmp (s : State) : (setLifeBegun s).tmp = s.tmp := rfl
@[simp] theorem setLifeBegun_rxbuf (s : State) : (setLifeBegun s).rxbuf = s.rxbuf := rfl
@[simp] theorem setLifeBegun_result (s : State) : (setLifeBegun s).result = s.result := rfl
@[simp] theorem setLifeBegun_dump (s : State) : (setLifeBegun s).dump = s.dump := rfl
@[simp] theorem setLifeBegun_rbyte (s : State) : (setLifeBegun s).rbyte = s.rbyte := rfl
@[simp] theorem setLifeBegun_trace (s : State) : (setLifeBegun s).trace = s.trace := rfl
@[simp] theorem setLifeBegun_cfg (s : State) : (setLifeBegun s).cfg = s.cfg := rfl
@[simp] theorem setLifeBegun_samples (s : State) : (setLifeBegun s).samples = s.samples := rfl
@[simp] theorem setLifeBegun_params (s : State) : (setLifeBegun s).params = s.params := rfl
@[simp] theorem setLifeBegun_cmd (s : State) : (setLifeBegun s).cmd = s.cmd := rfl
@[simp] theorem setLifeBegun_response (s : State) : (setLifeBegun s).response = s.response := rfl
@[simp] theorem setLifeBegun_script (s : State) : (setLifeBegun s).script = s.script := rfl
@[simp] theorem setLifeBegun_draws (s : State) : (setLifeBegun s).draws = s.draws := rfl

/-! `invoke` -/

@[simp] theorem invoke_seq (i : Instr) (s : State) : (invoke i s).seq = .busy i 0 := rfl
@[simp] theorem invoke_life (i : Instr) (s : State) : (invoke i s).life = s.life := rfl
@[simp] theorem invoke_status (i : Instr) (s : State) : (invoke i s).status = s.status := rfl
@[simp] theorem invoke_tmp (i : Instr) (s : State) : (invoke i s).tmp = s.tmp := rfl
@[simp] theorem invoke_rxbuf (i : Instr) (s : State) : (invoke i s).rxbuf = s.rxbuf := rfl
@[simp] theorem invoke_result (i : Instr) (s : State) : (invoke i s).result = s.result := rfl
@[simp] theorem invoke_dump (i : Instr) (s : State) : (invoke i s).dump = s.dump := rfl
@[simp] theorem invoke_rbyte (i : Instr) (s : State) : (invoke i s).rbyte = s.rbyte := rfl
@[simp] theorem invoke_trace (i : Instr) (s : State) : (invoke i s).trace = s.trace := rfl
@[simp] theorem invoke_cfg (i : Instr) (s : State) : (invoke i s).cfg = s.cfg := rfl
@[simp] theorem invoke_samples (i : Instr) (s : State) : (invoke i s).samples = s.samples := rfl
@[simp] theorem invoke_params (i : Instr) (s : State) : (invoke i s).params = s.params := rfl
@[simp] theorem invoke_cmd (i : Instr) (s : State) : (invoke i s).cmd = s.cmd := rfl
@[simp] theorem invoke_response (i : Instr) (s : State) : (invoke i s).response = s.response := rfl
@[simp] theorem invoke_script (i : Instr) (s : State) : (invoke i s).script = s.script := rfl
@[simp] theorem invoke_draws (i : Instr) (s : State) : (invoke i s).draws = s.draws := rfl

/-! `raiseTransportFault` -/

@[simp] theorem raiseTransportFault_seq (e : TransportError) (s : State) : (raiseTransportFault e s).seq = .idle := rfl
@[simp] theorem raiseTransportFault_life (e : TransportError) (s : State) : (raiseTransportFault e s).life = s.life := rfl
@[simp] theorem raiseTransportFault_status (e : TransportError) (s : State) : (raiseTransportFault e s).status = .fault e := rfl
@[simp] theorem raiseTransportFault_tmp (e : TransportError) (s : State) : (raiseTransportFault e s).tmp = s.tmp := rfl
@[simp] theorem raiseTransportFault_rxbuf (e : TransportError) (s : State) : (raiseTransportFault e s).rxbuf = s.rxbuf := rfl
@[simp] theorem raiseTransportFault_result (e : TransportError) (s : State) : (raiseTransportFault e s).result = s.result := rfl
@[simp] theorem raiseTransportFault_dump (e : TransportError) (s : State) : (raiseTransportFault e s).dump = s.dump := rfl
@[simp] theorem raiseTransportFault_rbyte (e : TransportError) (s : State) : (raiseTransportFault e s).rbyte = s.rbyte := rfl
@[simp] theorem raiseTransportFault_trace (e : TransportError) (s : State) : (raiseTransportFault e s).trace = s.trace := rfl
@[simp] theorem raiseTransportFault_cfg (e : TransportError) (s : State) : (raiseTransportFault e s).cfg = s.cfg := rfl
@[simp] theorem raiseTransportFault_samples (e : TransportError) (s : State) : (raiseTransportFault e s).samples = s.samples := rfl
@[simp] theorem raiseTransportFault_params (e : TransportError) (s : State) : (raiseTransportFault e s).params = s.params := rfl
@[simp] theorem raiseTransportFault_cmd (e : TransportError) (s : State) : (raiseTransportFault e s).cmd = s.cmd := rfl
@[simp] theorem raiseTransportFault_response (e : TransportError) (s : State) : (raiseTransportFault e s).response = some (.err e) := rfl
@[simp] theorem raiseTransportFault_script (e : TransportError) (s : State) : (raiseTransportFault e s).script = s.script := rfl
@[simp] theorem raiseTransportFault_draws (e : TransportError) (s : State) : (raiseTransportFault e s).draws = s.draws := rfl

/-! `consumeTurn` -/

@[simp] theorem consumeTurn_seq (s : State) : (consumeTurn s).seq = s.seq := by
  unfold consumeTurn; split <;> simp_all
@[simp] theorem consumeTurn_life (s : State) : (consumeTurn s).life = s.life := by
  unfold consumeTurn; split <;> simp_all
@[simp] theorem consumeTurn_status (s : State) : (consumeTurn s).status = s.status := by
  unfold consumeTurn; split <;> simp_all
@[simp] theorem consumeTurn_tmp (s : State) : (consumeTurn s).tmp = s.tmp := by
  unfold consumeTurn; split <;> simp_all
@[simp] theorem consumeTurn_rxbuf (s : State) : (consumeTurn s).rxbuf = s.rxbuf := by
  unfold consumeTurn; split <;> simp_all
@[simp] theorem consumeTurn_result (s : State) : (consumeTurn s).result = s.result := by
  unfold consumeTurn; split <;> simp_all
@[simp] theorem consumeTurn_dump (s : State) : (consumeTurn s).dump = s.dump := by
  unfold consumeTurn; split <;> simp_all
@[simp] theorem consumeTurn_rbyte (s : State) : (consumeTurn s).rbyte = s.rbyte := by
  unfold consumeTurn; split <;> simp_all
@[simp] theorem consumeTurn_trace (s : State) : (consumeTurn s).trace = s.trace := by
  unfold consumeTurn; split <;> simp_all
@[simp] theorem consumeTurn_cfg (s : State) : (consumeTurn s).cfg = s.cfg := by
  unfold consumeTurn; split <;> simp_all
@[simp] theorem consumeTurn_samples (s : State) : (consumeTurn s).samples = s.samples := by
  unfold consumeTurn; split <;> simp_all
@[simp] theorem consumeTurn_params (s : State) : (consumeTurn s).params = s.params := by
  unfold consumeTurn; split <;> simp_all
@[simp] theorem consumeTurn_cmd (s : State) : (consumeTurn s).cmd = s.cmd := by
  unfold consumeTurn; split <;> simp_all
@[simp] theorem consumeTurn_response (s : State) : (consumeTurn s).response = s.response := by
  unfold consumeTurn; split <;> simp_all
@[simp] theorem consumeTurn_script (s : State) : (consumeTurn s).script = s.script.tail := by
  unfold consumeTurn; split <;> simp_all

/-! `issue` -/

@[simp] theorem issue_seq (f : Frame) (s : State) : (issue f s).seq = s.seq := by
  simp [issue]
@[simp] theorem issue_life (f : Frame) (s : State) : (issue f s).life = s.life := by
  simp [issue]
@[simp] theorem issue_status (f : Frame) (s : State) : (issue f s).status = s.status := by
  simp [issue]
@[simp] theorem issue_tmp (f : Frame) (s : State) : (issue f s).tmp = s.tmp := by
  simp [issue]
@[simp] theorem issue_rxbuf (f : Frame) (s : State) : (issue f s).rxbuf = s.rxbuf := by
  simp [issue]
@[simp] theorem issue_result (f : Frame) (s : State) : (issue f s).result = s.result := by
  simp [issue]
@[simp] theorem issue_dump (f : Frame) (s : State) : (issue f s).dump = s.dump := by
  simp [issue]
@[simp] theorem issue_rbyte (f : Frame) (s : State) : (issue f s).rbyte = s.rbyte := by
  simp [issue]
@[simp] theorem issue_trace (f : Frame) (s : State) : (issue f s).trace = s.trace ++ [entryOf f (replyTo f s)] := by
  simp [issue]
@[simp] theorem issue_cfg (f : Frame) (s : State) : (issue f s).cfg = (replyTo f s).cfg := by
  simp [issue]
@[simp] theorem issue_samples (f : Frame) (s : State) : (issue f s).samples = (replyTo f s).samples := by
  simp [issue]
@[simp] theorem issue_params (f : Frame) (s : State) : (issue f s).params = s.params := by
  simp [issue]
@[simp] theorem issue_cmd (f : Frame) (s : State) : (issue f s).cmd = s.cmd := by
  simp [issue]
@[simp] theorem issue_response (f : Frame) (s : State) : (issue f s).response = s.response := by
  simp [issue]
@[simp] theorem issue_script (f : Frame) (s : State) : (issue f s).script = s.script.tail := by
  simp [issue]
@[simp] theorem issue_draws (f : Frame) (s : State) : (issue f s).draws = (consumeTurn s).draws := by
  simp [issue]

/-! `finishEffect` -/

@[simp] theorem finishEffect_seq (fin : Finish) (s : State) : (finishEffect fin s).seq = s.seq := by
  cases fin <;> rfl
@[simp] theorem finishEffect_life (fin : Finish) (s : State) : (finishEffect fin s).life = if fin = .begun then .begun else s.life := by
  cases fin <;> rfl
@[simp] theorem finishEffect_status (fin : Finish) (s : State) : (finishEffect fin s).status = s.status := by
  cases fin <;> rfl
@[simp] theorem finishEffect_tmp (fin : Finish) (s : State) : (finishEffect fin s).tmp = s.tmp := by
  cases fin <;> rfl
@[simp] theorem finishEffect_rxbuf (fin : Finish) (s : State) : (finishEffect fin s).rxbuf = s.rxbuf := by
  cases fin <;> rfl
@[simp] theorem finishEffect_result (fin : Finish) (s : State) : (finishEffect fin s).result = if fin = .result then decodeSample s.rxbuf else s.result := by
  cases fin <;> rfl
@[simp] theorem finishEffect_dump (fin : Finish) (s : State) : (finishEffect fin s).dump = s.dump := by
  cases fin <;> rfl
@[simp] theorem finishEffect_rbyte (fin : Finish) (s : State) : (finishEffect fin s).rbyte = s.rbyte := by
  cases fin <;> rfl
@[simp] theorem finishEffect_trace (fin : Finish) (s : State) : (finishEffect fin s).trace = s.trace := by
  cases fin <;> rfl
@[simp] theorem finishEffect_cfg (fin : Finish) (s : State) : (finishEffect fin s).cfg = s.cfg := by
  cases fin <;> rfl
@[simp] theorem finishEffect_samples (fin : Finish) (s : State) : (finishEffect fin s).samples = s.samples := by
  cases fin <;> rfl
@[simp] theorem finishEffect_params (fin : Finish) (s : State) : (finishEffect fin s).params = s.params := by
  cases fin <;> rfl
@[simp] theorem finishEffect_cmd (fin : Finish) (s : State) : (finishEffect fin s).cmd = s.cmd := by
  cases fin <;> rfl
@[simp] theorem finishEffect_response (fin : Finish) (s : State) : (finishEffect fin s).response = s.response := by
  cases fin <;> rfl
@[simp] theorem finishEffect_script (fin : Finish) (s : State) : (finishEffect fin s).script = s.script := by
  cases fin <;> rfl
@[simp] theorem finishEffect_draws (fin : Finish) (s : State) : (finishEffect fin s).draws = s.draws := by
  cases fin <;> rfl

/-! `complete` -/

@[simp] theorem complete_seq (fin : Finish) (s : State) : (complete fin s).seq = .idle := by
  cases fin <;> rfl
@[simp] theorem complete_life (fin : Finish) (s : State) : (complete fin s).life = if fin = .begun then .begun else s.life := by
  cases fin <;> rfl
@[simp] theorem complete_status (fin : Finish) (s : State) : (complete fin s).status = .ok := by
  cases fin <;> rfl
@[simp] theorem complete_tmp (fin : Finish) (s : State) : (complete fin s).tmp = s.tmp := by
  cases fin <;> rfl
@[simp] theorem complete_rxbuf (fin : Finish) (s : State) : (complete fin s).rxbuf = s.rxbuf := by
  cases fin <;> rfl
@[simp] theorem complete_result (fin : Finish) (s : State) : (complete fin s).result = if fin = .result then decodeSample s.rxbuf else s.result := by
  cases fin <;> rfl
@[simp] theorem complete_dump (fin : Finish) (s : State) : (complete fin s).dump = s.dump := by
  cases fin <;> rfl
@[simp] theorem complete_rbyte (fin : Finish) (s : State) : (complete fin s).rbyte = s.rbyte := by
  cases fin <;> rfl
@[simp] theorem complete_trace (fin : Finish) (s : State) : (complete fin s).trace = s.trace := by
  cases fin <;> rfl
@[simp] theorem complete_cfg (fin : Finish) (s : State) : (complete fin s).cfg = s.cfg := by
  cases fin <;> rfl
@[simp] theorem complete_samples (fin : Finish) (s : State) : (complete fin s).samples = s.samples := by
  cases fin <;> rfl
@[simp] theorem complete_params (fin : Finish) (s : State) : (complete fin s).params = s.params := by
  cases fin <;> rfl
@[simp] theorem complete_cmd (fin : Finish) (s : State) : (complete fin s).cmd = s.cmd := by
  cases fin <;> rfl
@[simp] theorem complete_script (fin : Finish) (s : State) : (complete fin s).script = s.script := by
  cases fin <;> rfl
@[simp] theorem complete_draws (fin : Finish) (s : State) : (complete fin s).draws = s.draws := by
  cases fin <;> rfl

/-! `Phase.capture` -/

@[simp] theorem phase_capture_seq (ph : Phase) (rx : List Byte) (s : State) : (Phase.capture ph rx s).seq = s.seq := by
  unfold Phase.capture; split <;> rfl
@[simp] theorem phase_capture_life (ph : Phase) (rx : List Byte) (s : State) : (Phase.capture ph rx s).life = s.life := by
  unfold Phase.capture; split <;> rfl
@[simp] theorem phase_capture_status (ph : Phase) (rx : List Byte) (s : State) : (Phase.capture ph rx s).status = s.status := by
  unfold Phase.capture; split <;> rfl
@[simp] theorem phase_capture_result (ph : Phase) (rx : List Byte) (s : State) : (Phase.capture ph rx s).result = s.result := by
  unfold Phase.capture; split <;> rfl
@[simp] theorem phase_capture_trace (ph : Phase) (rx : List Byte) (s : State) : (Phase.capture ph rx s).trace = s.trace := by
  unfold Phase.capture; split <;> rfl
@[simp] theorem phase_capture_cfg (ph : Phase) (rx : List Byte) (s : State) : (Phase.capture ph rx s).cfg = s.cfg := by
  unfold Phase.capture; split <;> rfl
@[simp] theorem phase_capture_samples (ph : Phase) (rx : List Byte) (s : State) : (Phase.capture ph rx s).samples = s.samples := by
  unfold Phase.capture; split <;> rfl
@[simp] theorem phase_capture_params (ph : Phase) (rx : List Byte) (s : State) : (Phase.capture ph rx s).params = s.params := by
  unfold Phase.capture; split <;> rfl
@[simp] theorem phase_capture_cmd (ph : Phase) (rx : List Byte) (s : State) : (Phase.capture ph rx s).cmd = s.cmd := by
  unfold Phase.capture; split <;> rfl
@[simp] theorem phase_capture_response (ph : Phase) (rx : List Byte) (s : State) : (Phase.capture ph rx s).response = s.response := by
  unfold Phase.capture; split <;> rfl
@[simp] theorem phase_capture_script (ph : Phase) (rx : List Byte) (s : State) : (Phase.capture ph rx s).script = s.script := by
  unfold Phase.capture; split <;> rfl
@[simp] theorem phase_capture_draws (ph : Phase) (rx : List Byte) (s : State) : (Phase.capture ph rx s).draws = s.draws := by
  unfold Phase.capture; split <;> rfl

end Sys2Proof.Machine
end

