-- ==== Sys2Proof/Laws/Ops.lean ====
section
/-! SUPPORT. What each shared operation can do: the LINK's answer, one transaction, a run of transactions, and the two
forms every operation's meaning has. -/

namespace Sys2Proof.Machine

/-! ### The configuration registers -/

/-- The four register addresses (R29). -/
theorem regAddr_cases : ∀ a : RegAddr, a = 0 ∨ a = 1 ∨ a = 2 ∨ a = 3 := by decide

theorem readReg_writeReg_same (r : Regs) (a : RegAddr) (v : Byte) : readReg (writeReg r a v) a = v := by
  unfold readReg writeReg; split_ifs <;> rfl

theorem readReg_writeReg_other (r : Regs) (a b : RegAddr) (v : Byte) (h : b ≠ a) :
    readReg (writeReg r a v) b = readReg r b := by
  rcases regAddr_cases a with rfl | rfl | rfl | rfl <;> rcases regAddr_cases b with rfl | rfl | rfl | rfl <;>
    first | exact absurd rfl h | rfl

theorem Regs_ext_read (r q : Regs) (h : ∀ a, readReg r a = readReg q a) : r = q := by
  have h0 := h 0; have h1 := h 1; have h2 := h 2; have h3 := h 3
  cases r; cases q
  simp only [readReg] at h0 h1 h2 h3
  simp_all

/-! ### Entries and answers -/

@[simp] theorem replyTo_error (f : Frame) (s : State) : (replyTo f s).error = (currentTurn s).fault := by
  unfold replyTo linkReply
  split
  · next h => rw [h]; unfold faultedReply; split <;> rfl
  · next h =>
    rw [h]
    split
    · unfold unconstrainedReply; split <;> rfl
    · unfold responderReply; split <;> first | rfl | (split <;> rfl)

/-- The number of bytes a frame captures. -/
theorem Frame_captures (f : Frame) :
    xactCaptures f.subOps = match f with
      | .rreg _ => 1
      | .sread => 3
      | _ => 0 := by
  rcases f with _ | _ | _ | _ | _ | _ <;> try rfl
  next b => cases b <;> rfl

/-- A successful transaction captures as many bytes as its frame asks for. -/
theorem replyTo_rx_length (f : Frame) (s : State) (h : (currentTurn s).fault = none) :
    (replyTo f s).rx.length = xactCaptures f.subOps := by
  rw [Frame_captures]
  unfold replyTo linkReply
  rw [h]
  dsimp only
  split
  · unfold unconstrainedReply; split <;> simp [Sample.bytes]
  · unfold responderReply; split <;> first | rfl | (split <;> rfl)

/-- A faulted transaction captures nothing. -/
theorem replyTo_rx_of_fault (f : Frame) (s : State) (e : TransportError) (h : (currentTurn s).fault = some e) :
    (replyTo f s).rx = [] := by
  unfold replyTo linkReply
  rw [h]
  dsimp only
  unfold faultedReply
  split <;> rfl

/-- The environment's choices depend on the script, the counter and the LINK only. -/
theorem currentTurn_congr {s u : State} (h1 : s.script = u.script) (h2 : s.draws = u.draws)
    (h3 : s.params = u.params) : currentTurn s = currentTurn u := by
  unfold currentTurn; rw [h1, h2, h3]

/-! ### One transaction of an operation -/

/-- A failed transaction aborts the operation. -/
theorem advance_fault (i : Instr) (pl : Plan) (k : Nat) (ph : Phase) (s : State) (e : TransportError)
    (h : (currentTurn s).fault = some e) :
    advance i pl k ph s = raiseTransportFault e (issue (ph.frame s) s) := by
  simp [advance, h]

/-- A successful transaction that is not the last one advances the sequencer. -/
theorem advance_ok (i : Instr) (pl : Plan) (k : Nat) (ph : Phase) (s : State)
    (h : (currentTurn s).fault = none) (hk : k + 1 < pl.phases.length) :
    advance i pl k ph s =
      { ph.capture (replyTo (ph.frame s) s).rx (issue (ph.frame s) s) with seq := .busy i (k + 1) } := by
  simp [advance, h, hk]

/-- The last transaction, successful, completes the operation. -/
theorem advance_last (i : Instr) (pl : Plan) (k : Nat) (ph : Phase) (s : State)
    (h : (currentTurn s).fault = none) (hk : ¬ k + 1 < pl.phases.length) :
    advance i pl k ph s =
      complete pl.finish (ph.capture (replyTo (ph.frame s) s).rx (issue (ph.frame s) s)) := by
  simp [advance, h, hk]

/-- What one transaction can do: abort, advance or complete. -/
theorem advance_cases (i : Instr) (pl : Plan) (k : Nat) (ph : Phase) (s : State) :
    (∃ e, (currentTurn s).fault = some e ∧
      advance i pl k ph s = raiseTransportFault e (issue (ph.frame s) s)) ∨
    ((currentTurn s).fault = none ∧ k + 1 < pl.phases.length ∧ advance i pl k ph s =
      { ph.capture (replyTo (ph.frame s) s).rx (issue (ph.frame s) s) with seq := .busy i (k + 1) }) ∨
    ((currentTurn s).fault = none ∧ ¬ k + 1 < pl.phases.length ∧ advance i pl k ph s =
      complete pl.finish (ph.capture (replyTo (ph.frame s) s).rx (issue (ph.frame s) s))) := by
  cases h : (currentTurn s).fault with
  | some e => exact .inl ⟨e, rfl, advance_fault i pl k ph s e h⟩
  | none =>
    by_cases hk : k + 1 < pl.phases.length
    · exact .inr (.inl ⟨rfl, hk, advance_ok i pl k ph s h hk⟩)
    · exact .inr (.inr ⟨rfl, hk, advance_last i pl k ph s h hk⟩)

@[simp] theorem advance_trace (i : Instr) (pl : Plan) (k : Nat) (ph : Phase) (s : State) :
    (advance i pl k ph s).trace = s.trace ++ [entryOf (ph.frame s) (replyTo (ph.frame s) s)] := by
  rcases advance_cases i pl k ph s with ⟨e, _, h⟩ | ⟨_, _, h⟩ | ⟨_, _, h⟩ <;> rw [h] <;> simp

@[simp] theorem advance_params (i : Instr) (pl : Plan) (k : Nat) (ph : Phase) (s : State) :
    (advance i pl k ph s).params = s.params := by
  rcases advance_cases i pl k ph s with ⟨e, _, h⟩ | ⟨_, _, h⟩ | ⟨_, _, h⟩ <;> rw [h] <;> simp

@[simp] theorem advance_cmd (i : Instr) (pl : Plan) (k : Nat) (ph : Phase) (s : State) :
    (advance i pl k ph s).cmd = s.cmd := by
  rcases advance_cases i pl k ph s with ⟨e, _, h⟩ | ⟨_, _, h⟩ | ⟨_, _, h⟩ <;> rw [h] <;> simp

@[simp] theorem advance_script (i : Instr) (pl : Plan) (k : Nat) (ph : Phase) (s : State) :
    (advance i pl k ph s).script = s.script.tail := by
  rcases advance_cases i pl k ph s with ⟨e, _, h⟩ | ⟨_, _, h⟩ | ⟨_, _, h⟩ <;> rw [h] <;> simp

@[simp] theorem advance_draws (i : Instr) (pl : Plan) (k : Nat) (ph : Phase) (s : State) :
    (advance i pl k ph s).draws = (consumeTurn s).draws := by
  rcases advance_cases i pl k ph s with ⟨e, _, h⟩ | ⟨_, _, h⟩ | ⟨_, _, h⟩ <;> rw [h] <;> simp

@[simp] theorem advance_cfg (i : Instr) (pl : Plan) (k : Nat) (ph : Phase) (s : State) :
    (advance i pl k ph s).cfg = (replyTo (ph.frame s) s).cfg := by
  rcases advance_cases i pl k ph s with ⟨e, _, h⟩ | ⟨_, _, h⟩ | ⟨_, _, h⟩ <;> rw [h] <;> simp

@[simp] theorem advance_samples (i : Instr) (pl : Plan) (k : Nat) (ph : Phase) (s : State) :
    (advance i pl k ph s).samples = (replyTo (ph.frame s) s).samples := by
  rcases advance_cases i pl k ph s with ⟨e, _, h⟩ | ⟨_, _, h⟩ | ⟨_, _, h⟩ <;> rw [h] <;> simp

/-! ### A run of transactions -/

@[simp] theorem runPhases_nil (i : Instr) (pl : Plan) (k : Nat) (s : State) : runPhases i pl k [] s = s := rfl

/-- The run stops at a failed transaction. -/
theorem runPhases_fault (i : Instr) (pl : Plan) (k : Nat) (ph : Phase) (rest : List Phase) (s : State)
    (e : TransportError) (h : (currentTurn s).fault = some e) :
    runPhases i pl k (ph :: rest) s = raiseTransportFault e (issue (ph.frame s) s) := by
  simp [runPhases, advance_fault i pl k ph s e h]

/-- The run goes on behind a successful transaction that is not the last one. -/
theorem runPhases_ok (i : Instr) (pl : Plan) (k : Nat) (ph : Phase) (rest : List Phase) (s : State)
    (h : (currentTurn s).fault = none) (hk : k + 1 < pl.phases.length) :
    runPhases i pl k (ph :: rest) s =
      runPhases i pl (k + 1) rest
        { ph.capture (replyTo (ph.frame s) s).rx (issue (ph.frame s) s) with seq := .busy i (k + 1) } := by
  simp [runPhases, advance_ok i pl k ph s h hk]

/-- The run ends with the last transaction. -/
theorem runPhases_last (i : Instr) (pl : Plan) (k : Nat) (ph : Phase) (rest : List Phase) (s : State)
    (h : (currentTurn s).fault = none) (hk : ¬ k + 1 < pl.phases.length) :
    runPhases i pl k (ph :: rest) s =
      complete pl.finish (ph.capture (replyTo (ph.frame s) s).rx (issue (ph.frame s) s)) := by
  simp [runPhases, advance_last i pl k ph s h hk]

/-- A run of the transactions from `k` to the end leaves the sequencer `IDLE`. -/
theorem runPhases_seq (i : Instr) (pl : Plan) (k : Nat) (phs : List Phase) (s : State)
    (hlen : k + phs.length = pl.phases.length) (hne : phs ≠ []) : (runPhases i pl k phs s).seq = .idle := by
  induction phs generalizing k s with
  | nil => exact absurd rfl hne
  | cons ph rest ih =>
    simp only [List.length_cons] at hlen
    rcases advance_cases i pl k ph s with ⟨e, h, _⟩ | ⟨h, hk, _⟩ | ⟨h, hk, _⟩
    · rw [runPhases_fault i pl k ph rest s e h]; simp
    · rw [runPhases_ok i pl k ph rest s h hk]
      exact ih _ _ (by omega) (by rintro rfl; simp at hlen; omega)
    · rw [runPhases_last i pl k ph rest s h hk]; simp

/-- Whatever each transaction keeps, a run keeps. -/
theorem runPhases_keeps (P : State → Prop) (i : Instr) (pl : Plan) (k : Nat) (phs : List Phase) (s : State)
    (hstep : ∀ k ph s, ph ∈ phs → P s → P (advance i pl k ph s)) (h : P s) : P (runPhases i pl k phs s) := by
  induction phs generalizing k s with
  | nil => exact h
  | cons ph rest ih =>
    have h' : P (advance i pl k ph s) := hstep k ph s (by simp) h
    simp only [runPhases]
    split
    · exact h'
    · exact ih _ _ (fun k q s hq => hstep k q s (by simp [hq])) h'

/-! ### The two forms of a meaning -/

/-- When an operation with bus traffic gives a next state, and which. -/
theorem perform_next {i : Instr} {plan : Except Refusal Plan} {s t : State} (h : perform i plan s = .next t) :
    s.seq = .idle ∧ ∃ pl, plan = .ok pl ∧ t = runPhases i pl 0 pl.phases (invoke i s) := by
  unfold perform at h
  split at h
  · cases h
  · next hs =>
    cases plan with
    | error r => cases h
    | ok pl => cases h; exact ⟨hs, pl, rfl, rfl⟩

/-- An operation with bus traffic gives the run of its plan. -/
theorem perform_ok {i : Instr} {plan : Except Refusal Plan} {s : State} {pl : Plan} (hs : s.seq = .idle)
    (hp : plan = .ok pl) : perform i plan s = .next (runPhases i pl 0 pl.phases (invoke i s)) := by
  simp [perform, hs, hp]

theorem perform_error {i : Instr} {plan : Except Refusal Plan} {s : State} {r : Refusal} (hs : s.seq = .idle)
    (hp : plan = .error r) : perform i plan s = .refused r := by
  simp [perform, hs, hp]

theorem perform_busy {i j : Instr} {k : Nat} {plan : Except Refusal Plan} {s : State} (hs : s.seq = .busy j k) :
    perform i plan s = .refused .busy := by
  simp [perform, hs]

theorem perform_no_fault {i : Instr} {plan : Except Refusal Plan} {s : State} {r : Fault} :
    perform i plan s ≠ .fault r := by
  unfold perform; repeat' split
  all_goals simp

/-- What needs exposure is there when `EXPOSE_PRIMITIVES` is true. -/
theorem exposed_true {α : Type} {p : Config.Params} (x : Except Refusal α) (he : p.exposePrimitives = true) :
    exposed p x = x := by
  simp [exposed, he]

theorem exposed_false {α : Type} {p : Config.Params} (x : Except Refusal α) (he : p.exposePrimitives = false) :
    exposed p x = .error .notExposed := by
  simp [exposed, he]

theorem exposed_ok {α : Type} {p : Config.Params} {x : Except Refusal α} {y : α} (h : exposed p x = .ok y) :
    p.exposePrimitives = true ∧ x = .ok y := by
  unfold exposed at h
  split at h
  · next he => exact ⟨he, h⟩
  · cases h

/-- When a pure function unit gives a next state, and which. -/
theorem present_next {v : Except Refusal Value} {s t : State} (h : present v s = .next t) :
    s.seq = .idle ∧ s.params.exposePrimitives = true ∧
      ∃ x, v = .ok x ∧ t = { s with response := some (.ok x) } := by
  unfold present at h
  split at h
  · cases h
  · next hs =>
    cases hv : exposed s.params v with
    | error r => rw [hv] at h; cases h
    | ok x => rw [hv] at h; cases h; exact ⟨hs, (exposed_ok hv).1, x, (exposed_ok hv).2, rfl⟩

theorem present_ok {v : Except Refusal Value} {s : State} {x : Value} (hs : s.seq = .idle)
    (he : s.params.exposePrimitives = true) (hv : v = .ok x) :
    present v s = .next { s with response := some (.ok x) } := by
  simp [present, hs, hv, exposed_true _ he]

theorem present_error {v : Except Refusal Value} {s : State} {r : Refusal} (hs : s.seq = .idle)
    (he : s.params.exposePrimitives = true) (hv : v = .error r) : present v s = .refused r := by
  simp [present, hs, hv, exposed_true _ he]

theorem present_not_exposed {v : Except Refusal Value} {s : State} (hs : s.seq = .idle)
    (he : s.params.exposePrimitives = false) : present v s = .refused .notExposed := by
  simp [present, hs, exposed_false _ he]

theorem present_busy {j : Instr} {k : Nat} {v : Except Refusal Value} {s : State} (hs : s.seq = .busy j k) :
    present v s = .refused .busy := by
  simp [present, hs]

theorem present_no_fault {v : Except Refusal Value} {s : State} {r : Fault} : present v s ≠ .fault r := by
  unfold present; repeat' split
  all_goals simp

end Sys2Proof.Machine
end

