-- ==== Sys2Proof/Laws/Wire.lean ====
section
/-! SUPPORT. The normal form of a transaction (R36) and the command bytes (R58): the lemmas the decoders' round trips
rest on. -/

namespace Sys2Proof

/-! ### Merging -/

theorem mergeFront_write_write (b c : List Byte) (zs : List SubOp) :
    mergeFront (.write b) (mergeFront (.write c) zs) = mergeFront (.write (b ++ c)) zs := by
  rcases zs with _ | ⟨_ | _ | _ | _, zs⟩ <;> simp [mergeFront]

theorem mergeFront_wait_wait (d e : Nat) (zs : List SubOp) :
    mergeFront (.wait d) (mergeFront (.wait e) zs) = mergeFront (.wait (d + e)) zs := by
  rcases zs with _ | ⟨_ | _ | _ | _, zs⟩ <;> simp [mergeFront, Nat.add_assoc]

theorem xactTransmits_mergeFront (x : SubOp) (zs : List SubOp) :
    xactTransmits (mergeFront x zs) = x.transmits ++ xactTransmits zs := by
  rcases x with _ | _ | _ | _ <;> rcases zs with _ | ⟨_ | _ | _ | _, zs⟩ <;>
    simp [mergeFront, xactTransmits, SubOp.transmits]

theorem xactCaptures_mergeFront (x : SubOp) (zs : List SubOp) :
    xactCaptures (mergeFront x zs) = x.captures + xactCaptures zs := by
  rcases x with _ | _ | _ | _ <;> rcases zs with _ | ⟨_ | _ | _ | _, zs⟩ <;>
    simp [mergeFront, xactCaptures, SubOp.captures]

/-- The normal form transmits the same bytes. -/
theorem xactTransmits_normalForm (xs : List SubOp) : xactTransmits (normalForm xs) = xactTransmits xs := by
  induction xs with
  | nil => rfl
  | cons x xs ih => rw [normalForm, xactTransmits_mergeFront, ih]; simp [xactTransmits]

/-- The normal form captures as many bytes. -/
theorem xactCaptures_normalForm (xs : List SubOp) : xactCaptures (normalForm xs) = xactCaptures xs := by
  induction xs with
  | nil => rfl
  | cons x xs ih => rw [normalForm, xactCaptures_mergeFront, ih]; simp [xactCaptures]

/-- The normal form of a concatenation depends on the normal form of its second part. -/
theorem normalForm_append (xs ys : List SubOp) : normalForm (xs ++ ys) = xs.foldr mergeFront (normalForm ys) := by
  induction xs with
  | nil => rfl
  | cons x xs ih => simp [normalForm, ih]

/-! ### The normal form is final -/

/-- Would the two be merged? -/
def mergeable : SubOp → SubOp → Bool
  | .wait _, .wait _ => true
  | .write _, .write _ => true
  | _, _ => false

/-- No two neighbours would be merged. -/
def noneMergeable : List SubOp → Bool
  | x :: y :: zs => !mergeable x y && noneMergeable (y :: zs)
  | _ => true

theorem noneMergeable_mergeFront (x : SubOp) (zs : List SubOp) (h : noneMergeable zs = true) :
    noneMergeable (mergeFront x zs) = true := by
  rcases x with _ | _ | _ | _ <;> rcases zs with _ | ⟨_ | _ | _ | _, _ | ⟨_ | _ | _ | _, zs⟩⟩ <;>
    simp_all [mergeFront, noneMergeable, mergeable]

theorem noneMergeable_normalForm (xs : List SubOp) : noneMergeable (normalForm xs) = true := by
  induction xs with
  | nil => rfl
  | cons x xs ih => exact noneMergeable_mergeFront x _ ih

theorem normalForm_of_noneMergeable (xs : List SubOp) (h : noneMergeable xs = true) : normalForm xs = xs := by
  induction xs with
  | nil => rfl
  | cons x xs ih =>
    rcases xs with _ | ⟨y, ys⟩
    · rcases x with _ | _ | _ | _ <;> rfl
    · simp only [noneMergeable, Bool.and_eq_true] at h
      rw [normalForm, ih h.2]
      rcases x with _ | _ | _ | _ <;> rcases y with _ | _ | _ | _ <;> simp_all [mergeFront, mergeable]

theorem normalForm_normalForm (xs : List SubOp) : normalForm (normalForm xs) = normalForm xs :=
  normalForm_of_noneMergeable _ (noneMergeable_normalForm xs)

/-! ### Leaving the waits out -/

/-- The transaction without its waits. -/
def withoutWaits (xs : List SubOp) : List SubOp := xs.filter fun x => !x.isWait

theorem normalForm_withoutWaits_mergeFront (x : SubOp) (zs : List SubOp) :
    normalForm (withoutWaits (mergeFront x zs)) = normalForm (withoutWaits (x :: zs)) := by
  rcases x with d | b | n | tx <;> rcases zs with _ | ⟨e | c | m | tx', zs⟩ <;>
    try simp [mergeFront, withoutWaits, SubOp.isWait, normalForm]
  exact (mergeFront_write_write b c (normalForm (withoutWaits zs))).symm

/-- The normal form loses nothing of what is left without the waits. -/
theorem normalForm_withoutWaits (xs : List SubOp) :
    normalForm (withoutWaits (normalForm xs)) = normalForm (withoutWaits xs) := by
  induction xs with
  | nil => rfl
  | cons x xs ih =>
    rw [normalForm, normalForm_withoutWaits_mergeFront]
    cases hx : x.isWait <;> simp_all [withoutWaits, normalForm]

/-- The frame the responder sees: it does not look at waits. -/
def Frame.seen : Frame → Frame
  | .reset _ => .reset false
  | f => f

/-! ### Command bytes -/

theorem wregByte_matches : ∀ a : RegAddr,
    commandMatches registerMask Config.cmdWreg (Machine.commandByte Config.cmdWreg a) = true ∧
    commandAddr (Machine.commandByte Config.cmdWreg a) = a ∧
    commandMatches registerMask Config.cmdRreg (Machine.commandByte Config.cmdWreg a) = false ∧
    commandMatches wholeMask Config.cmdReset (Machine.commandByte Config.cmdWreg a) = false ∧
    commandMatches wholeMask Config.cmdStart (Machine.commandByte Config.cmdWreg a) = false := by decide

theorem rregByte_matches : ∀ a : RegAddr,
    commandMatches registerMask Config.cmdRreg (Machine.commandByte Config.cmdRreg a) = true ∧
    commandAddr (Machine.commandByte Config.cmdRreg a) = a ∧
    commandMatches wholeMask Config.cmdReset (Machine.commandByte Config.cmdRreg a) = false ∧
    commandMatches wholeMask Config.cmdStart (Machine.commandByte Config.cmdRreg a) = false := by decide

theorem wregByte_of_matches : ∀ b : Byte, commandMatches registerMask Config.cmdWreg b = true →
    b = Machine.commandByte Config.cmdWreg (commandAddr b) := by decide

theorem rregByte_of_matches : ∀ b : Byte, commandMatches registerMask Config.cmdRreg b = true →
    b = Machine.commandByte Config.cmdRreg (commandAddr b) := by decide

/-- A transaction whose normal form is a frame's is read as that frame, whatever its grouping. -/
theorem ofWire_of_normalForm {f : Frame} {xs : List SubOp} (h : normalForm xs = f.subOps) :
    Frame.ofWire xs = some f.seen := by
  have hne : xs.isEmpty = false := by
    rcases xs with _ | _
    · rcases f with _ | _ | b | _ | _ | _ <;> first | cases h | (cases b <;> cases h)
    · rfl
  have key : normalForm (xs.filter fun x => !x.isWait) = normalForm (withoutWaits f.subOps) := by
    rw [← h, normalForm_withoutWaits]; rfl
  unfold Frame.ofWire
  rw [key]
  rcases f with ⟨a, v⟩ | a | b | _ | _ | _
  · simp [withoutWaits, Frame.subOps, SubOp.isWait, normalForm, mergeFront, wregByte_matches a, Frame.seen]
  · simp [withoutWaits, Frame.subOps, SubOp.isWait, normalForm, mergeFront, rregByte_matches a, Frame.seen]
  · cases b <;> simp [withoutWaits, Frame.subOps, SubOp.isWait, normalForm, mergeFront, Frame.seen]
  · simp [withoutWaits, Frame.subOps, SubOp.isWait, normalForm, mergeFront, Frame.seen, Config.cmdReset,
      Config.cmdStart]
  · simp [withoutWaits, Frame.subOps, SubOp.isWait, normalForm, mergeFront, Frame.seen]
  · simp [withoutWaits, Frame.subOps, SubOp.isWait, normalForm, hne, Frame.seen]

theorem meetsWaits_self (xs : List SubOp) : meetsWaits xs xs = true := by
  induction xs with
  | nil => rfl
  | cons x xs ih => rcases x with _ | _ | _ | _ <;> simp [meetsWaits, ih, SubOp.isWait]

/-- A frame is recognised in every grouping. -/
theorem decode_frame {f : Frame} {xs : List SubOp} (h : normalForm xs = f.subOps) : Frame.decode xs = .ok f := by
  unfold Frame.decode
  rw [ofWire_of_normalForm h, h]
  rcases f with ⟨a, v⟩ | a | b | _ | _ | _ <;> try simp [Frame.seen, meetsWaits_self]
  cases b
  · simp [meetsWaits_self]
  · rfl

end Sys2Proof
end

