-- ==== Sys2Proof/Laws/PerInstr.lean ====
section
/-! SUPPORT. The family RoundTrip: each operation that has an encoding is read back from its own command bytes and from
its own transaction. -/

namespace Sys2Proof.Laws.RoundTrip

/-- The command bytes of the operation and its transaction, where it has them, decode to it (R57, R58, R69). -/
def Statement (i : Instr) : Prop :=
  (∀ bytes, encode i = some bytes → decode bytes = .ok (i, [])) ∧
    ∀ xs, encodeTransaction i = some xs → decodeTransaction xs = .ok i

/-- An operation without an encoding. -/
theorem of_no_encoding {i : Instr} (h : encode i = none) (h' : encodeTransaction i = none) : Statement i :=
  ⟨fun _ hb => by simp [h] at hb, fun _ hx => by simp [h'] at hx⟩

/-- A frame is read back from its own sub-operations. -/
theorem decode_own (f : Frame) (h : normalForm f.subOps = f.subOps) {i : Instr} (hi : f.instr = .ok i) :
    decodeTransaction f.subOps = .ok i := by
  simp [decodeTransaction, decode_frame h, hi]

theorem encode (f : Field) (cur : Byte) (c : Byte) : Statement (.encode f cur c) := of_no_encoding rfl rfl

theorem extract (f : Field) (v : Byte) : Statement (.extract f v) := of_no_encoding rfl rfl

theorem decode0 (v : Byte) : Statement (.decode0 v) := of_no_encoding rfl rfl

theorem decode1 (v : Byte) : Statement (.decode1 v) := of_no_encoding rfl rfl

theorem decode2 (v : Byte) : Statement (.decode2 v) := of_no_encoding rfl rfl

theorem decode3 (v : Byte) : Statement (.decode3 v) := of_no_encoding rfl rfl

theorem enumEncode (x : Variant) : Statement (.enumEncode x) := of_no_encoding rfl rfl

theorem enumDecode (f : Field) (c : Byte) : Statement (.enumDecode f c) := of_no_encoding rfl rfl

theorem wreg (a : RegAddr) (v : Byte) : Statement (.wreg a v) := by
  refine ⟨fun bytes h => ?_, fun xs h => ?_⟩
  · cases h; simp [decode, wregByte_matches a]
  · cases h; exact decode_own (.wreg a v) rfl rfl

theorem rreg (a : RegAddr) : Statement (.rreg a) := by
  refine ⟨fun bytes h => ?_, fun xs h => ?_⟩
  · cases h; simp [decode, rregByte_matches a]
  · cases h; exact decode_own (.rreg a) rfl rfl

theorem reset : Statement .reset := by
  refine ⟨fun bytes h => ?_, fun xs h => ?_⟩
  · cases h; rfl
  · cases h; exact decode_own (.reset false) rfl rfl

theorem start : Statement .start := by
  refine ⟨fun bytes h => ?_, fun xs h => ?_⟩
  · cases h; rfl
  · cases h; exact decode_own .start rfl rfl

theorem sread : Statement .sread := by
  refine ⟨fun bytes h => by simp [Sys2Proof.encode] at h, fun xs h => ?_⟩
  cases h; exact decode_own .sread rfl rfl

theorem setMux (x : Mux) : Statement (.setMux x) := of_no_encoding rfl rfl

theorem setGain (x : Gain) : Statement (.setGain x) := of_no_encoding rfl rfl

theorem setPgaBypass (x : OneBit) : Statement (.setPgaBypass x) := of_no_encoding rfl rfl

theorem setDataRate (x : ThreeBit) : Statement (.setDataRate x) := of_no_encoding rfl rfl

theorem setOperatingMode (x : TwoBit) : Statement (.setOperatingMode x) := of_no_encoding rfl rfl

theorem setConversionMode (x : OneBit) : Statement (.setConversionMode x) := of_no_encoding rfl rfl

theorem setTempSensorMode (x : OneBit) : Statement (.setTempSensorMode x) := of_no_encoding rfl rfl

theorem setBurnoutCurrent (x : OneBit) : Statement (.setBurnoutCurrent x) := of_no_encoding rfl rfl

theorem setVrefSelect (x : TwoBit) : Statement (.setVrefSelect x) := of_no_encoding rfl rfl

theorem setFirFilter (x : TwoBit) : Statement (.setFirFilter x) := of_no_encoding rfl rfl

theorem setLowSideSwitch (x : OneBit) : Statement (.setLowSideSwitch x) := of_no_encoding rfl rfl

theorem setIdacCurrent (x : ThreeBit) : Statement (.setIdacCurrent x) := of_no_encoding rfl rfl

theorem setIdac1Route (x : Route) : Statement (.setIdac1Route x) := of_no_encoding rfl rfl

theorem setIdac2Route (x : Route) : Statement (.setIdac2Route x) := of_no_encoding rfl rfl

theorem setDrdyMode (x : OneBit) : Statement (.setDrdyMode x) := of_no_encoding rfl rfl

theorem setFieldRaw (f : Field) (c : Byte) : Statement (.setFieldRaw f c) := of_no_encoding rfl rfl

theorem beginInit : Statement .beginInit := of_no_encoding rfl rfl

theorem readSingleShot : Statement .readSingleShot := of_no_encoding rfl rfl

theorem readChannel (m : Mux) : Statement (.readChannel m) := of_no_encoding rfl rfl

theorem dumpRegisters : Statement .dumpRegisters := of_no_encoding rfl rfl

theorem sdec (b0 : Byte) (b1 : Byte) (b2 : Byte) : Statement (.sdec b0 b1 b2) := of_no_encoding rfl rfl

end Sys2Proof.Laws.RoundTrip
end

