-- ==== Sys2Proof/Laws/Sequencer.lean ====
section
/-! SUPPORT. What `exec` does, said once for all operations: a pure function unit presents a value that depends on the
operands and the parameters only; every other operation runs the plan of `planOf`. -/

namespace Sys2Proof.Machine

/-- The nine pure function units (R2). -/
def isPure : Instr → Bool
  | .encode _ _ _ | .extract _ _ | .decode0 _ | .decode1 _ | .decode2 _ | .decode3 _ | .enumEncode _
  | .enumDecode _ _ | .sdec _ _ _ => true
  | _ => false

/-- The value a pure function unit presents. -/
def pureValue (p : Config.Params) : Instr → Except Refusal Value
  | .encode f cur c => (checkedCode f c).map fun c => .byte (encodeField f cur c)
  | .extract f v => .ok (.code (extractField f v))
  | .decode0 v => .ok (.decoded0 (decodeReg0 v))
  | .decode1 v => .ok (.decoded1 (decodeReg1 v))
  | .decode2 v => .ok (.decoded2 (decodeReg2 v))
  | .decode3 v => .ok (.decoded3 (decodeReg3 v))
  | .enumEncode x => (checkedVariant p x).map .code
  | .enumDecode f c => enumDecodeValue p f c
  | .sdec b0 b1 b2 => .ok (.int32 (decodeSample ⟨b0, b1, b2⟩))
  | _ => .ok .none

theorem exec_of_pure (i : Instr) (s : State) (h : isPure i = true) : exec i s = present (pureValue s.params i) s := by
  cases i <;> first | rfl | cases h

theorem exec_of_bus (i : Instr) (s : State) (h : isPure i = false) : exec i s = perform i (planOf s.params i) s := by
  cases i <;> first | rfl | cases h

/-- The one inversion lemma of `exec`: a next state comes from `IDLE`, and is a presented value or a run. -/
theorem exec_next_cases {i : Instr} {s t : State} (h : exec i s = .next t) :
    s.seq = .idle ∧
      ((isPure i = true ∧ s.params.exposePrimitives = true ∧
          ∃ v, pureValue s.params i = .ok v ∧ t = { s with response := some (.ok v) }) ∨
       (isPure i = false ∧ ∃ pl, planOf s.params i = .ok pl ∧ t = runPhases i pl 0 pl.phases (invoke i s))) := by
  cases hp : isPure i with
  | true =>
    rw [exec_of_pure i s hp] at h
    obtain ⟨hs, he, v, hv, ht⟩ := present_next h
    exact ⟨hs, .inl ⟨rfl, he, v, hv, ht⟩⟩
  | false =>
    rw [exec_of_bus i s hp] at h
    obtain ⟨hs, pl, hpl, ht⟩ := perform_next h
    exact ⟨hs, .inr ⟨rfl, pl, hpl, ht⟩⟩

/-! ### Operand checks -/

theorem checkedCode_ok {f : Field} {c : Byte} (h : codeFits f c = true) : checkedCode f c = .ok c := by
  simp [checkedCode, h]

theorem checkedCode_error {f : Field} {c : Byte} (h : codeFits f c = false) : checkedCode f c = .error .codeTooWide := by
  simp [checkedCode, h]

theorem checkedVariant_ok {p : Config.Params} {x : Variant} {c : Byte} (h : enumEncode p x = some c) :
    checkedVariant p x = .ok c := by
  simp [checkedVariant, h]

theorem checkedVariant_error {p : Config.Params} {x : Variant} (h : enumEncode p x = none) :
    checkedVariant p x = .error .notAVariant := by
  simp [checkedVariant, h]

theorem typedSetter_ok {p : Config.Params} {x : Variant} {c : Byte} (h : enumEncode p x = some c) :
    typedSetter p x = .ok ⟨readModifyWrite (variantField x) c, .nothing⟩ := by
  simp [typedSetter, checkedVariant_ok h]

theorem typedSetter_error {p : Config.Params} {x : Variant} (h : enumEncode p x = none) :
    typedSetter p x = .error .notAVariant := by
  simp [typedSetter, checkedVariant_error h]

/-- A typed setter's plan is there exactly for a variant of its field. -/
theorem typedSetter_isOk (p : Config.Params) (x : Variant) :
    (∃ pl, typedSetter p x = .ok pl ∧ pl.phases.length = 2) ↔ x.wellFormed p = true := by
  unfold Variant.wellFormed
  cases h : enumEncode p x with
  | none => simp [typedSetter_error h]
  | some c => simp [typedSetter_ok h, readModifyWrite]

/-- Every plan of an operation with bus traffic has at least one transaction and at most six. -/
theorem plan_length {p : Config.Params} {i : Instr} {pl : Plan} (h : planOf p i = .ok pl) (hp : isPure i = false) :
    1 ≤ pl.phases.length ∧ pl.phases.length ≤ 6 := by
  have setter : ∀ x, typedSetter p x = .ok pl → 1 ≤ pl.phases.length ∧ pl.phases.length ≤ 6 := by
    intro x hx
    cases hc : enumEncode p x with
    | none => rw [typedSetter_error hc] at hx; cases hx
    | some c => rw [typedSetter_ok hc] at hx; cases hx; simp [readModifyWrite]
  cases i <;> first
    | exact setter _ h
    | (cases hp; done)
    | skip
  case wreg => simp only [planOf, planWreg, exposed] at h; split at h <;> cases h; simp
  case rreg => simp only [planOf, planRreg, exposed] at h; split at h <;> cases h; simp
  case reset => simp only [planOf, planReset, exposed] at h; split at h <;> cases h; simp
  case start => simp only [planOf, planStart, exposed] at h; split at h <;> cases h; simp
  case sread => simp only [planOf, planSread, exposed] at h; split at h <;> cases h; simp
  case setFieldRaw f c =>
    simp only [planOf, planSetFieldRaw, exposed] at h
    split at h
    · split at h <;> cases h; simp [readModifyWrite]
    · cases h
  case beginInit => cases h; cases p.placement <;> decide
  case readSingleShot => cases h; decide
  case readChannel m =>
    simp only [planOf, planReadChannel] at h
    split at h <;> cases h; simp [readModifyWrite, singleShotPhases]
  case dumpRegisters => cases h; decide

/-- The operations HOST may present are those with a plan or a value. -/
theorem plan_of_invocable {p : Config.Params} {i : Instr} (h : i.invocable p = true) (hp : isPure i = false) :
    ∃ pl, planOf p i = .ok pl := by
  have setter : ∀ x : Variant, x.wellFormed p = true → ∃ pl, typedSetter p x = .ok pl := fun x hx =>
    let ⟨pl, h, _⟩ := (typedSetter_isOk p x).2 hx
    ⟨pl, h⟩
  cases i <;> simp only [Instr.invocable, Instr.wellFormed, Instr.needsExposure, Bool.and_eq_true, Bool.or_eq_true,
      Bool.not_true, Bool.not_false, true_and, and_true, true_or, false_or, Bool.false_eq_true] at h <;> first
    | exact setter _ h
    | (cases hp; done)
    | skip
  case wreg => simp [planOf, planWreg, exposed, h]
  case rreg => simp [planOf, planRreg, exposed, h]
  case reset => simp [planOf, planReset, exposed, h]
  case start => simp [planOf, planStart, exposed, h]
  case sread => simp [planOf, planSread, exposed, h]
  case setFieldRaw f c =>
    simp [planOf, planSetFieldRaw, exposed, checkedField, checkedCode, h]
  case beginInit => exact ⟨_, rfl⟩
  case readSingleShot => exact ⟨_, rfl⟩
  case readChannel m =>
    obtain ⟨c, hc⟩ := Option.isSome_iff_exists.1 h
    simp [planOf, planReadChannel, checkedVariant_ok hc]
  case dumpRegisters => exact ⟨_, rfl⟩

end Sys2Proof.Machine
end

