-- ==== Sys2Proof/Laws/Run.lean ====
section
/-! SUPPORT. A transaction the LINK answers with `Ok`: what each frame captures and leaves at the far end, and one more
transaction of a run in that case. -/

namespace Sys2Proof.Machine

/-- The LINK's `Ok` to a transaction, EXTERNAL's steps before it included. -/
def okReply (p : Config.Params) (t : Turn) (f : Frame) (cfg : Regs) (samples : List Sample) : Reply :=
  match p.link with
  | .unconstrained => unconstrainedReply t f (afterExternal p t cfg) samples
  | .responder => responderReply p t f (afterExternal p t cfg) samples

/-- The sample a LINK that answers `Ok` delivers, and the stream after it. -/
def okSample (p : Config.Params) (t : Turn) (samples : List Sample) : Sample × List Sample :=
  match p.link, samples with
  | .responder, x :: rest => (x, rest)
  | _, samples => (t.rx, samples)

/-- The state after a transaction answered with `Ok`. -/
def afterOk (t : Turn) (f : Frame) (s : State) : State :=
  { s with
    cfg := (okReply s.params t f s.cfg s.samples).cfg
    samples := (okReply s.params t f s.cfg s.samples).samples
    trace := s.trace ++ [TraceEntry.mk f.subOps (okReply s.params t f s.cfg s.samples).rx none]
    script := s.script.tail
    draws := s.draws + (1 - s.script.length) }

/-! ### Each frame's answer -/

variable (p : Config.Params) (t : Turn) (cfg : Regs) (samples : List Sample)

theorem okReply_wreg (a : RegAddr) (v : Byte) :
    okReply p t (.wreg a v) cfg samples =
      ⟨none, [], match p.link with
        | .responder => writeReg (afterExternal p t cfg) a v
        | .unconstrained => writeReg (afterExternal p t cfg) a (readReg t.far a), samples⟩ := by
  unfold okReply; split <;> rename_i h <;> simp [unconstrainedReply, responderReply, h]

theorem okReply_rreg (a : RegAddr) :
    okReply p t (.rreg a) cfg samples =
      ⟨none, [match p.link with
        | .responder => readReg (afterExternal p t cfg) a
        | .unconstrained => t.rx.b0], afterExternal p t cfg, samples⟩ := by
  unfold okReply; split <;> rename_i h <;> simp [unconstrainedReply, responderReply, h]

theorem okReply_reset (b : Bool) :
    okReply p t (.reset b) cfg samples =
      ⟨none, [], match p.link with
        | .responder => p.devReset
        | .unconstrained => t.far, samples⟩ := by
  unfold okReply; split <;> rename_i h <;> simp [unconstrainedReply, responderReply, h]

theorem okReply_start : okReply p t .start cfg samples = ⟨none, [], afterExternal p t cfg, samples⟩ := by
  unfold okReply; split <;> simp [unconstrainedReply, responderReply]

theorem okReply_postResetWait :
    okReply p t .postResetWait cfg samples = ⟨none, [], afterExternal p t cfg, samples⟩ := by
  unfold okReply; split <;> simp [unconstrainedReply, responderReply]

theorem okReply_sread :
    okReply p t .sread cfg samples =
      ⟨none, (okSample p t samples).1.bytes, afterExternal p t cfg, (okSample p t samples).2⟩ := by
  unfold okReply okSample
  split <;> rename_i h <;> rw [h] <;> simp only [unconstrainedReply, responderReply] <;> cases samples <;> rfl

theorem okReply_error (f : Frame) : (okReply p t f cfg samples).error = none := by
  unfold okReply
  split <;> simp only [unconstrainedReply, responderReply] <;> split <;> first | rfl | (split <;> rfl)

/-! ### One more transaction answered with `Ok` -/

variable {p t cfg samples} {s : State}

theorem replyTo_ok {f : Frame} (ht : currentTurn s = t) (hf : t.fault = none) :
    replyTo f s = okReply s.params t f s.cfg s.samples := by
  cases hl : s.params.link <;> simp [replyTo, linkReply, ht, hf, okReply, hl]

theorem issue_ok {f : Frame} (ht : currentTurn s = t) (hf : t.fault = none) : issue f s = afterOk t f s := by
  unfold issue
  rw [replyTo_ok ht hf]
  simp only [entryOf, okReply_error]
  rcases h : s.script with _ | ⟨x, r⟩ <;> simp [afterOk, consumeTurn, h]

/-- The run goes on behind a transaction answered with `Ok`. -/
theorem runPhases_step {i : Instr} {pl : Plan} {k : Nat} {ph : Phase} {rest : List Phase} (t : Turn)
    (ht : currentTurn s = t) (hf : t.fault = none) (hk : k + 1 < pl.phases.length) :
    runPhases i pl k (ph :: rest) s =
      runPhases i pl (k + 1) rest
        { ph.capture (okReply s.params t (ph.frame s) s.cfg s.samples).rx (afterOk t (ph.frame s) s) with
          seq := .busy i (k + 1) } := by
  rw [runPhases_ok _ _ _ _ _ _ (by rw [ht, hf]) hk, issue_ok ht hf, replyTo_ok ht hf]

/-- The run ends with its last transaction, answered with `Ok`. -/
theorem runPhases_end {i : Instr} {pl : Plan} {k : Nat} {ph : Phase} {rest : List Phase} (t : Turn)
    (ht : currentTurn s = t) (hf : t.fault = none) (hk : ¬ k + 1 < pl.phases.length) :
    runPhases i pl k (ph :: rest) s =
      complete pl.finish (ph.capture (okReply s.params t (ph.frame s) s.cfg s.samples).rx
        (afterOk t (ph.frame s) s)) := by
  rw [runPhases_last _ _ _ _ _ _ (by rw [ht, hf]) hk, issue_ok ht hf, replyTo_ok ht hf]

/-! ### What a run and an operation keep -/

/-- A run only appends to `TRACE`. -/
theorem runPhases_trace (i : Instr) (pl : Plan) (k : Nat) (phs : List Phase) (s : State) :
    ∃ new, (runPhases i pl k phs s).trace = s.trace ++ new :=
  runPhases_keeps (fun u => ∃ new, u.trace = s.trace ++ new) i pl k phs s
    (fun k ph u _ ⟨new, h⟩ => ⟨new ++ [entryOf (ph.frame u) (replyTo (ph.frame u) u)], by rw [advance_trace, h]; simp⟩)
    ⟨[], by simp⟩

/-- No operation writes the parameters (R25) or what HOST presents next. -/
theorem exec_params_cmd {i : Instr} {s t : State} (h : exec i s = .next t) :
    t.params = s.params ∧ t.cmd = s.cmd := by
  obtain ⟨_, ⟨_, _, v, _, rfl⟩ | ⟨_, pl, _, rfl⟩⟩ := exec_next_cases h
  · exact ⟨rfl, rfl⟩
  · exact runPhases_keeps (fun u => u.params = s.params ∧ u.cmd = s.cmd) i pl 0 pl.phases (invoke i s)
      (fun k ph u _ hu => by simpa using hu) ⟨rfl, rfl⟩

/-- An operation only appends to `TRACE` (R23). -/
theorem exec_trace {i : Instr} {s t : State} (h : exec i s = .next t) : ∃ new, t.trace = s.trace ++ new := by
  obtain ⟨_, ⟨_, _, v, _, rfl⟩ | ⟨_, pl, _, rfl⟩⟩ := exec_next_cases h
  · exact ⟨[], by simp⟩
  · exact runPhases_trace i pl 0 pl.phases (invoke i s)

/-- An operation ends with `SEQ = IDLE`. -/
theorem exec_seq {i : Instr} {s t : State} (h : exec i s = .next t) : t.seq = .idle := by
  obtain ⟨hs, ⟨_, _, v, _, rfl⟩ | ⟨hp, pl, hpl, rfl⟩⟩ := exec_next_cases h
  · exact hs
  · have := (plan_length hpl hp).1
    exact runPhases_seq i pl 0 pl.phases _ (by simp) (by rintro h; simp [h] at this)

end Sys2Proof.Machine
end

