-- ==== Sys2Proof/Laws/Safety.lean ====
section
/-! SUPPORT. `ResetSettled` (R136) of a trace that goes on: what its parts have, and what may follow a trace whose reset
bytes are waited out. -/

namespace Sys2Proof.Safety

open Sys2Proof.Machine

/-! ### Reading onward from one reset byte -/

theorem settledFrom_left {xs ys : List SubOp} (h : settledFrom (xs ++ ys) = true) : settledFrom xs = true := by
  induction xs with
  | nil => rfl
  | cons x xs ih =>
    rcases x with d | b | n | tx
    · simp only [List.cons_append, settledFrom, Bool.or_eq_true] at h ⊢
      exact h.imp id ih
    all_goals exact absurd h (by simp [settledFrom])

/-- A wait that comes before a read comes before whatever stands in the read's place. -/
theorem settledFrom_beyond {xs : List SubOp} {n : Nat} (ys : List SubOp) (h : settledFrom (xs ++ [.read n]) = true) :
    settledFrom (xs ++ ys) = true := by
  induction xs with
  | nil => exact absurd h (by simp [settledFrom])
  | cons x xs ih =>
    rcases x with d | b | n | tx
    · simp only [List.cons_append, settledFrom, Bool.or_eq_true] at h ⊢
      exact h.imp id ih
    all_goals exact absurd h (by simp [settledFrom])

/-! ### The whole trace -/

@[simp] theorem subOpsOf_nil : subOpsOf [] = [] := rfl

@[simp] theorem subOpsOf_append (es fs : List TraceEntry) : subOpsOf (es ++ fs) = subOpsOf es ++ subOpsOf fs := by
  simp [subOpsOf]

theorem settledOnward_left {xs ys : List SubOp} (h : settledOnward (xs ++ ys) = true) : settledOnward xs = true := by
  induction xs with
  | nil => rfl
  | cons x xs ih =>
    simp only [List.cons_append, settledOnward, Bool.and_eq_true] at h ⊢
    refine ⟨?_, ih h.2⟩
    cases hb : behindResetByte x with
    | none => rfl
    | some rest =>
      have h1 := h.1
      simp only [hb, Bool.and_eq_true] at h1 ⊢
      exact ⟨h1.1, settledFrom_left h1.2⟩

theorem settledOnward_right {xs ys : List SubOp} (h : settledOnward (xs ++ ys) = true) : settledOnward ys = true := by
  induction xs with
  | nil => exact h
  | cons x xs ih =>
    simp only [List.cons_append, settledOnward, Bool.and_eq_true] at h
    exact ih h.2

/-- Behind reset bytes that are waited out anything may follow that is settled itself. -/
theorem settledOnward_beyond {xs ys : List SubOp} {n : Nat} (h : settledOnward (xs ++ [.read n]) = true)
    (hy : settledOnward ys = true) : settledOnward (xs ++ ys) = true := by
  induction xs with
  | nil => exact hy
  | cons x xs ih =>
    simp only [List.cons_append, settledOnward, Bool.and_eq_true] at h ⊢
    refine ⟨?_, ih h.2⟩
    cases hb : behindResetByte x with
    | none => rfl
    | some rest =>
      have h1 := h.1
      simp only [hb, Bool.and_eq_true] at h1 ⊢
      exact ⟨h1.1, settledFrom_beyond ys h1.2⟩

/-- The first part of a settled trace is settled. -/
theorem resetSettled_left {es fs : List TraceEntry} (h : resetSettled (es ++ fs) = true) : resetSettled es = true := by
  rw [resetSettled, subOpsOf_append] at h
  exact settledOnward_left h

/-- The last part of a settled trace is settled. -/
theorem resetSettled_right {es fs : List TraceEntry} (h : resetSettled (es ++ fs) = true) : resetSettled fs = true := by
  rw [resetSettled, subOpsOf_append] at h
  exact settledOnward_right h

/-- A trace whose reset bytes are waited out stays settled behind any transactions settled among themselves. -/
theorem resetSettled_append {es fs : List TraceEntry} (h : resetWaitedOut es = true) (hf : resetSettled fs = true) :
    resetSettled (es ++ fs) = true := by
  rw [resetSettled, subOpsOf_append]
  exact settledOnward_beyond h hf

theorem resetWaitedOut_append {es fs : List TraceEntry} (h : resetWaitedOut es = true) (hf : resetWaitedOut fs = true) :
    resetWaitedOut (es ++ fs) = true := by
  rw [resetWaitedOut, subOpsOf_append, List.append_assoc]
  exact settledOnward_beyond h hf

theorem resetSettled_of_waitedOut {es : List TraceEntry} (h : resetWaitedOut es = true) : resetSettled es = true :=
  settledOnward_left h

end Sys2Proof.Safety
end

