-- ==== Sys2Proof/Tests/Slice0.lean ====
section
/-! SUPPORT. Tests: ill-formed terms the checks refuse, words decoded as the spec writes them out, one step of each
operation against the vectors of spec/95_test_vectors.md, and a witness for the hypotheses of each statement. -/

namespace Sys2Proof.Tests

open Sys2Proof.Machine Sys2Proof.Safety Sys2Proof.Claims

/-! ### Small states -/

/-- A transaction answered `Ok`, every byte received being `x`, with no step of EXTERNAL. -/
def quiet (x : Byte) : Turn := ⟨[], none, ⟨x, x, x⟩, ⟨x, x, x, x⟩, [], false⟩

/-- A transaction that fails; `CFG` comes to hold `x` where the spec leaves it open. -/
def failing (x : Byte) : Turn := ⟨[], some ⟨1⟩, ⟨x, x, x⟩, ⟨x, x, x, x⟩, [], false⟩

/-- The source's mock: "echoes a fixed register byte 0x5A on any read" (95_test_vectors.md S9). -/
def echo : State := { State.reset with script := List.replicate 6 (quiet 0x5A) }

/-- The reference responder holding `cfg`, with the sample 0xFF, 0xFF, 0xFE to come. -/
def bench (cfg : Regs) (turns : List Turn) : State :=
  { State.reset with
    params := { Config.defaultParams with link := .responder }
    cfg := cfg
    samples := [⟨0xFF, 0xFF, 0xFE⟩]
    script := turns }

/-- The registers of program P1 before it runs. -/
def anyCfg : Regs := ⟨0xAA, 0xBB, 0xCC, 0xDD⟩

/-- The responder, six quiet transactions to come. -/
def ready : State := bench anyCfg (List.replicate 6 (quiet 0))

/-- A next state, if there is one. -/
def after : Host.Outcome State Fault Refusal → Option State
  | .next t => some t
  | .fault _ => none
  | .refused _ => none

/-- What the CMD port presents. -/
def responseOf (o : Host.Outcome State Fault Refusal) : Option (Option Response) := (after o).map fun t => t.response

/-- The transmitted bytes of each new transaction. -/
def sentBy (o : Host.Outcome State Fault Refusal) : Option (List (List Byte)) :=
  (after o).map fun t => t.trace.map fun e => xactTransmits e.subOps

/-- The registers after. -/
def cfgOf (o : Host.Outcome State Fault Refusal) : Option Regs := (after o).map fun t => t.cfg

/-! ### Ill-formed terms -/

theorem test_wellFormed_encode_code : Instr.wellFormed Config.defaultParams (.encode .gain 0 8) = false ∧
    Instr.wellFormed Config.defaultParams (.encode .mux 0 16) = false ∧
    Instr.wellFormed Config.defaultParams (.encode .reserved0 0 2) = false ∧
    Instr.wellFormed Config.defaultParams (.encode .reserved0 0 1) = true := by decide

theorem test_wellFormed_enumEncode : Instr.wellFormed Config.defaultParams (.enumEncode (.gain .unrecognized)) = false ∧
    Instr.wellFormed Config.defaultParams (.enumEncode (.dataRate .v7)) = false ∧
    Instr.wellFormed Config.defaultParams (.enumEncode (.idac1Route .v7)) = false ∧
    Instr.wellFormed Config.defaultParams (.enumEncode (.idac1Route .reserved)) = true := by decide

theorem test_wellFormed_enumDecode : Instr.wellFormed Config.defaultParams (.enumDecode .reserved0 0) = false ∧
    Instr.wellFormed Config.defaultParams (.enumDecode .dataRate 8) = false ∧
    Instr.wellFormed Config.defaultParams (.enumDecode .dataRate 7) = true := by decide

theorem test_wellFormed_setters :
    [Instr.setMux .unrecognized, .setGain .unrecognized, .setPgaBypass .unrecognized, .setDataRate .v7,
      .setOperatingMode .unrecognized, .setConversionMode .unrecognized, .setTempSensorMode .unrecognized,
      .setBurnoutCurrent .unrecognized, .setVrefSelect .unrecognized, .setFirFilter .unrecognized,
      .setLowSideSwitch .unrecognized, .setIdacCurrent .unrecognized, .setIdac1Route .v7, .setIdac2Route .v7,
      .setDrdyMode .unrecognized, .readChannel .unrecognized].all
      (fun i => !i.wellFormed Config.defaultParams) = true := by decide

theorem test_wellFormed_legal_set :
    Instr.wellFormed { Config.defaultParams with legalOperatingMode := [0, 1, 2] } (.setOperatingMode .v3) = false ∧
    Instr.wellFormed Config.defaultParams (.setOperatingMode .v3) = true := by decide

theorem test_wellFormed_setFieldRaw : Instr.wellFormed Config.defaultParams (.setFieldRaw .reserved0 0) = false ∧
    Instr.wellFormed Config.defaultParams (.setFieldRaw .dataRate 8) = false ∧
    Instr.wellFormed Config.defaultParams (.setFieldRaw .dataRate 7) = true := by decide

theorem test_invocable_not_exposed :
    [Instr.wreg 0 0, .rreg 0, .reset, .start, .sread, .setFieldRaw .mux 0, .encode .gain 0 0, .extract .gain 0,
      .decode0 0, .decode1 0, .decode2 0, .decode3 0, .enumEncode (.gain .factor1), .enumDecode .gain 0,
      .sdec 0 0 0].all
      (fun i => i.invocable Config.defaultParams &&
        !i.invocable { Config.defaultParams with exposePrimitives := false }) = true := by decide

/-- D24: "with false, only the twenty controller operations except `SET_FIELD_RAW` are on the CMD port". -/
theorem test_not_exposed :
    let s : State := { State.reset with params := { Config.defaultParams with exposePrimitives := false } }
    exec (.sdec 0 0 0) s = .refused .notExposed ∧ exec (.encode .gain 0x5A 2) s = .refused .notExposed ∧
    exec .start s = .refused .notExposed ∧ Instr.beginInit.invocable s.params = true := ⟨rfl, rfl, rfl, rfl⟩

theorem test_wellFormed_subOps : SubOp.wellFormed (.write []) = false ∧ SubOp.wellFormed (.read 0) = false ∧
    SubOp.wellFormed (.transfer []) = false ∧ xactWellFormed [] = false ∧
    xactWellFormed [.wait 50, .write []] = false ∧ xactWellFormed [.wait 50, .read 3] = true := by decide

/-! ### Words written out from R58 and R57 -/

theorem test_decode_wreg : decodeTableWord 16 0b1111111101001100 = some (.wreg 3 0xFF) ∧
    decodeTableWord 8 0b01000000 = some (.wreg 0 0) := by decide
theorem test_decode_rreg : decodeTableWord 8 0b00100000 = some (.rreg 0) ∧
    decodeTableWord 8 0b00100100 = some (.rreg 1) := by decide
theorem test_decode_reset : decodeTableWord 8 0b00000110 = some .reset := by decide
theorem test_decode_start : decodeTableWord 8 0b00001000 = some .start := by decide
theorem test_decode_sread : decodeTransaction [.wait 50, .read 3] = .ok .sread := by decide
theorem test_decode_reserved : decodeTableWord 8 0b01000001 = none ∧ decodeTableWord 8 0b00000111 = none ∧
    decodeTableWord 8 0b00110000 = none ∧ decodeTableWord 8 0b00010000 = none ∧
    decode [0x40] = .error .noValueByte ∧ decode [] = .error .noCommandByte := by decide
theorem test_decode_transactions :
    decodeTransaction [.wait 50, .write [0x4C], .write [0x00]] = .ok (.wreg 3 0x00) ∧
    decodeTransaction [.wait 50, .write [0x24], .transfer [0xFF]] = .ok (.rreg 1) ∧
    decodeTransaction [.wait 49, .write [0x06]] = .error .waitTooShort ∧
    decodeTransaction [.wait 50000] = .error .notAnInstruction ∧
    decodeTransaction [.wait 50, .read 2] = .error .noFormat := by decide

/-- The model's choice of log 27, where R35 has no empty `Write`. -/
theorem test_empty_write : Frame.ofWire [.write [], .write [0x06]] = some (.reset false) ∧
    Frame.ofWire [.wait 50, .write []] = none := by decide

/-- A word placed for the next fetch is the operation the next step runs. -/
theorem test_fetch_runs : step (State.reset.withFetchWord 8 0x06) = exec .reset State.reset := rfl

/-! ### One step of each operation (95_test_vectors.md) -/

/-- Four rows of the table of `ENCODE` in 2.1. -/
theorem test_encode : encodeField .gain 0x5A 2 = 0x54 ∧ encodeField .mux 0xA5 15 = 0xF5 ∧
    encodeField .idac2Route 0xFF 0 = 0xE3 ∧ encodeField .operatingMode 0x5A 0 = 0x42 := by decide
theorem test_encode_step : responseOf (exec (.encode .firFilter 0xFF 2) echo) = some (some (.ok (.byte 0xEF))) := by
  decide
theorem test_extract : responseOf (exec (.extract .dataRate 0xE4) echo) = some (some (.ok (.code 7))) := by decide
theorem test_decode0 : responseOf (exec (.decode0 0xA5) echo) = some (some (.ok (.decoded0 ⟨10, 2, 1⟩))) := by decide
theorem test_decode1 : responseOf (exec (.decode1 0x54) echo) = some (some (.ok (.decoded1 ⟨2, 2, 1, 0, 0⟩))) := by
  decide
theorem test_decode2 : responseOf (exec (.decode2 0xE1) echo) = some (some (.ok (.decoded2 ⟨3, 2, 0, 1⟩))) := by decide
theorem test_decode3 : responseOf (exec (.decode3 0x5A) echo) = some (some (.ok (.decoded3 ⟨2, 6, 1, 0⟩))) := by decide
theorem test_enumEncode : responseOf (exec (.enumEncode (.gain .factor128)) echo) = some (some (.ok (.code 7))) ∧
    responseOf (exec (.enumEncode (.idac1Route .reserved)) echo) = some (some (.ok (.code 7))) := by decide
theorem test_enumDecode :
    responseOf (exec (.enumDecode .dataRate 7) echo) = some (some (.ok (.variant (.dataRate .unrecognized)))) ∧
    responseOf (exec (.enumDecode .idac2Route 7) echo) = some (some (.ok (.variant (.idac2Route .reserved)))) := by
  decide
theorem test_sdec : (decodeSample ⟨0x7F, 0xFF, 0xFF⟩).toInt = 8388607 ∧
    (decodeSample ⟨0x80, 0x00, 0x00⟩).toInt = -8388608 ∧ (decodeSample ⟨0xED, 0xCB, 0xAA⟩).toInt = -1193046 ∧
    (decodeSample ⟨0x12, 0x34, 0x56⟩).toInt = 1193046 := by decide
theorem test_sdec_step : responseOf (exec (.sdec 0xFF 0xFF 0xFE) echo) = some (some (.ok (.int32 0xFFFFFFFE))) := by
  decide

theorem test_wreg : sentBy (exec (.wreg 3 0xFF) ready) = some [[0x4C, 0xFF]] ∧
    cfgOf (exec (.wreg 3 0xFF) ready) = some ⟨0xAA, 0xBB, 0xCC, 0xFF⟩ := by decide
theorem test_rreg : sentBy (exec (.rreg 2) ready) = some [[0x28, 0xFF]] ∧
    responseOf (exec (.rreg 2) ready) = some (some (.ok (.byte 0xCC))) := by decide
theorem test_reset : sentBy (exec .reset ready) = some [[0x06]] ∧
    cfgOf (exec .reset ready) = some ⟨0x00, 0x04, 0x10, 0x00⟩ := by decide
theorem test_start : sentBy (exec .start ready) = some [[0x08]] ∧ cfgOf (exec .start ready) = some anyCfg := by decide
theorem test_sread : sentBy (exec .sread ready) = some [[]] ∧
    responseOf (exec .sread ready) = some (some (.ok (.sample ⟨0xFF, 0xFF, 0xFE⟩))) := by decide

/-- The table of setters in 2.3, column 0x5A. -/
theorem test_setMux : sentBy (exec (.setMux .v8) echo) = some [[0x20, 0xFF], [0x40, 0x8A]] := by decide
theorem test_setGain : sentBy (exec (.setGain .factor4) echo) = some [[0x20, 0xFF], [0x40, 0x54]] := by decide
theorem test_setPgaBypass : sentBy (exec (.setPgaBypass .v1) echo) = some [[0x20, 0xFF], [0x40, 0x5B]] := by decide
theorem test_setDataRate : sentBy (exec (.setDataRate .v6) echo) = some [[0x24, 0xFF], [0x44, 0xDA]] := by decide
theorem test_setOperatingMode : sentBy (exec (.setOperatingMode .v1) echo) = some [[0x24, 0xFF], [0x44, 0x4A]] := by
  decide
theorem test_setConversionMode : sentBy (exec (.setConversionMode .v1) echo) = some [[0x24, 0xFF], [0x44, 0x5E]] := by
  decide
theorem test_setTempSensorMode : sentBy (exec (.setTempSensorMode .v0) echo) = some [[0x24, 0xFF], [0x44, 0x58]] := by
  decide
theorem test_setBurnoutCurrent : sentBy (exec (.setBurnoutCurrent .v1) echo) = some [[0x24, 0xFF], [0x44, 0x5B]] := by
  decide
theorem test_setVrefSelect : sentBy (exec (.setVrefSelect .v3) echo) = some [[0x28, 0xFF], [0x48, 0xDA]] := by decide
theorem test_setFirFilter : sentBy (exec (.setFirFilter .v2) echo) = some [[0x28, 0xFF], [0x48, 0x6A]] := by decide
theorem test_setLowSideSwitch : sentBy (exec (.setLowSideSwitch .v0) echo) = some [[0x28, 0xFF], [0x48, 0x52]] := by
  decide
theorem test_setIdacCurrent : sentBy (exec (.setIdacCurrent .v7) echo) = some [[0x28, 0xFF], [0x48, 0x5F]] := by decide
theorem test_setIdac1Route : sentBy (exec (.setIdac1Route .v5) echo) = some [[0x2C, 0xFF], [0x4C, 0xBA]] ∧
    sentBy (exec (.setIdac1Route .reserved) echo) = some [[0x2C, 0xFF], [0x4C, 0xFA]] := by decide
theorem test_setIdac2Route : sentBy (exec (.setIdac2Route .v3) echo) = some [[0x2C, 0xFF], [0x4C, 0x4E]] := by decide
theorem test_setDrdyMode : sentBy (exec (.setDrdyMode .v0) echo) = some [[0x2C, 0xFF], [0x4C, 0x58]] := by decide
theorem test_setFieldRaw : sentBy (exec (.setFieldRaw .dataRate 7) echo) = some [[0x24, 0xFF], [0x44, 0xFA]] := by
  decide

/-- Program P5: EXTERNAL's change between the two transactions is lost. -/
theorem test_lost_update :
    cfgOf (exec (.setConversionMode .v0)
      (bench ⟨0x00, 0x04, 0x10, 0x00⟩ [quiet 0, { quiet 0 with external := [(1, 0xC4)] }])) =
      some ⟨0x00, 0x00, 0x10, 0x00⟩ := by decide

/-- Program P1, steps 0 to 5 (the source's S7). -/
theorem test_begin : sentBy (exec .beginInit ready) =
      some [[0x06], [], [0x40, 0x00], [0x44, 0x04], [0x48, 0x10], [0x4C, 0x00]] ∧
    cfgOf (exec .beginInit ready) = some ⟨0x00, 0x04, 0x10, 0x00⟩ := by decide

/-- Program P4. -/
theorem test_begin_fault :
    let s := { bench anyCfg [quiet 0, quiet 0, quiet 0, failing 0x77] with
      params := { Config.defaultParams with link := .responder, devReset := ⟨0, 0, 0, 0⟩ } }
    cfgOf (exec .beginInit s) = some ⟨0x00, 0x77, 0x00, 0x00⟩ ∧
    (after (exec .beginInit s)).map (fun t => (t.status, t.life)) = some (.fault ⟨1⟩, .constructed) := by decide

theorem test_readSingleShot : sentBy (exec .readSingleShot ready) = some [[0x08], []] ∧
    responseOf (exec .readSingleShot ready) = some (some (.ok (.int32 0xFFFFFFFE))) := by decide

/-- Program P2, steps 6 to 9 (the source's S8). -/
theorem test_readChannel :
    let s := bench ⟨0x00, 0x04, 0x10, 0x00⟩ (List.replicate 4 (quiet 0))
    sentBy (exec (.readChannel .v8) s) = some [[0x20, 0xFF], [0x40, 0x80], [0x08], []] ∧
    cfgOf (exec (.readChannel .v8) s) = some ⟨0x80, 0x04, 0x10, 0x00⟩ := by decide

theorem test_dumpRegisters : sentBy (exec .dumpRegisters ready) =
      some [[0x20, 0xFF], [0x24, 0xFF], [0x28, 0xFF], [0x2C, 0xFF]] ∧
    responseOf (exec .dumpRegisters ready) = some (some (.ok (.dump ⟨0xAA, 0xBB, 0xCC, 0xDD⟩))) := by decide

/-- The vectors of `ResetSettled` in 2.5. -/
theorem test_resetSettled :
    resetSettled [resetEntry, postResetWaitEntry, writeEntry 0 0] = true ∧
    resetSettled [resetEntry, readEntry 0 0] = false ∧ resetSettled [resetEntry] = true ∧
    resetSettled [trailingResetEntry, writeEntry 0 0] = true := by decide

/-- R136 names "every transaction that transmits the byte `0x06`": a register write of that value is one. -/
theorem test_resetSettled_data_byte : resetSettled [writeEntry 1 0x06] = true ∧
    resetSettled [writeEntry 1 0x06, readEntry 1 0x06] = false ∧
    resetSettled [writeEntry 1 0x06, postResetWaitEntry, readEntry 1 0x06] = true := by decide

/-! ### Witnesses: the hypotheses of each statement hold together somewhere -/

theorem witness_EncodedCommandBytesDecodeBack : encode (.wreg 0 0x00) = some [0x40, 0x00] ∧
    encode (.wreg 3 0xFF) = some [0x4C, 0xFF] ∧ encode .reset = some [0x06] := by decide
theorem witness_DecodedCommandBytesAreEncodings : decode [0x4C, 0xFF, 0x08] = .ok (.wreg 3 0xFF, [0x08]) := by decide
theorem witness_EveryGroupingOfAPrimitiveDecodesBack :
    encodeTransaction (.wreg 3 0xFF) = some [.wait 50, .write [0x4C, 0xFF]] ∧
    normalForm [.wait 20, .wait 30, .write [0x4C], .write [0xFF]] = [.wait 50, .write [0x4C, 0xFF]] := by decide
theorem witness_DecodedTransactionsAreEncodings : decodeTransaction [.wait 60, .read 3] = .ok .sread := by decide
theorem test_waitTotal : waitTotal [.wait 20, .write [0x06], .wait 30, .wait 50] = 100 ∧
    waitTotal (normalForm [.wait 20, .write [0x06], .wait 30, .wait 50]) = 100 := by decide
theorem witness_FormatsAreNormalAndDistinct : (Frame.rreg 3).subOps = (Frame.rreg 3).subOps := by decide
theorem witness_OnlyTheTenCommandBytesAreSent : ∃ t, exec .dumpRegisters ready = .next t := ⟨_, rfl⟩
/-- A transaction without its waits, in normal form. -/
def seenBy (xs : List SubOp) : List SubOp := normalForm (xs.filter fun x => !x.isWait)

theorem witness_ResponderAnswers :
    seenBy [.wait 50, .write [0x4C], .write [0xFF]] = [.write [0x40 ||| ((3 : RegAddr).setWidth 8 <<< 2), 0xFF]] ∧
    seenBy [.write [0x20], .wait 9, .transfer [0xFF]] =
      [.write [0x20 ||| ((0 : RegAddr).setWidth 8 <<< 2)], .transfer [0xFF]] ∧
    seenBy [.wait 50, .write [0x06], .wait 50000] = [.write [0x06]] ∧
    seenBy [.wait 50, .write [0x08]] = [.write [0x08]] ∧ seenBy [.wait 50, .read 3] = [.read 3] ∧
    ready.samples = ⟨0xFF, 0xFF, 0xFE⟩ :: [] ∧ (∀ x ∈ [SubOp.wait 1, SubOp.wait 2], x.isWait = true) ∧
    (respond ready.params (quiet 0) [.wait 50, .read 3] anyCfg []).isSome = true ∧
    respond ready.params (quiet 0) [.wait 50, .write [0x41, 0x00]] anyCfg [] = none := by decide
theorem witness_EncodeClearsTheMaskAndOrsTheCode : echo.seq = .idle ∧ echo.params.exposePrimitives = true ∧
    (15 : Byte).toNat < 2 ^ fieldWidth .mux ∧ (1 : Byte).toNat < 2 ^ fieldWidth .reserved0 ∧
    2 ^ fieldWidth .reserved0 ≤ (2 : Byte).toNat := by decide
theorem witness_IdleState : echo.seq = .idle ∧ ready.seq = .idle ∧ State.reset.seq = .idle ∧
    echo.params.exposePrimitives = true ∧ ready.params.exposePrimitives = true ∧
    State.reset.params.exposePrimitives = true := by decide
theorem witness_EnumEncodeReturnsTheUniqueLegalCode : echo.seq = .idle ∧ echo.params.exposePrimitives = true ∧
    legalCode echo.params .gain 2 = true ∧ enumDecode echo.params .gain 2 = some (.gain .factor4) ∧
    fallbackOf .dataRate = some (.dataRate .unrecognized) := by decide
theorem witness_EnumDecodeReturnsTheVariantOrTheFallback : echo.seq = .idle ∧
    echo.params.exposePrimitives = true ∧ Field.dataRate ≠ .reserved0 ∧
    (7 : Byte).toNat < 2 ^ fieldWidth .dataRate ∧ legalCode echo.params .dataRate 7 = false ∧
    legalCode echo.params .dataRate 6 = true := by decide
/-- The legal sets are the default ones with the responder attached and another reset content, too. -/
theorem witness_defaultLegalSets : defaultLegalSets echo.params ∧
    defaultLegalSets { ready.params with devReset := anyCfg, placement := .trailing } ∧
    ready.params ≠ Config.defaultParams := by unfold defaultLegalSets; decide
theorem witness_EncodeExtractRoundTrip : (7 : Byte).toNat < 2 ^ fieldWidth .gain ∧
    enumEncode Config.defaultParams (.gain .factor4) = some 2 := by decide
theorem witness_EncodeLeavesTheOtherFields : (7 : Byte).toNat < 2 ^ fieldWidth .gain ∧ Field.mux ≠ .gain ∧
    fieldReg .mux = fieldReg .gain := by decide
theorem witness_EncodeOverwriteIdentityCommuteReassemble : (0 : Byte).toNat < 2 ^ fieldWidth .gain ∧
    (7 : Byte).toNat < 2 ^ fieldWidth .gain ∧ (15 : Byte).toNat < 2 ^ fieldWidth .mux ∧ Field.gain ≠ .mux ∧
    fieldReg .gain = fieldReg .mux ∧ decodeReg3 0xE1 = decodeReg3 0xE1 ∧
    enumEncode Config.defaultParams (.idac1Route .reserved) = some 7 ∧
    legalCode Config.defaultParams .mux 15 = true := by decide
theorem witness_MasksPartitionEachRegister : Field.drdyMode ∈ fieldsOf 3 ∧ Field.reserved0 ∈ fieldsOf 3 ∧
    Field.drdyMode ≠ .reserved0 := by decide
theorem witness_DefaultTypedViewFallsBackOnlyOnDataRateSeven : Field.mux ∈ fieldsOf 0 ∧ Field.dataRate ∈ fieldsOf 1 ∧
    Field.idacCurrent ∈ fieldsOf 2 ∧ Field.idac1Route ∈ fieldsOf 3 := by decide
theorem witness_SdecRangeValueAndInjectivity : (decodeSample ⟨0xFF, 0xFF, 0xFF⟩).toInt = -1 ∧
    (-8388608 : Int) ≤ -8388608 ∧ (-8388608 : Int) ≤ 8388607 := by decide
theorem witness_Primitives : ready.seq = .idle ∧ ready.params.exposePrimitives = true ∧ linkOk 1 ready ∧
    echo.params.exposePrimitives = true ∧ linkOk 1 echo := by unfold linkOk; decide
/-- The responder's answers may be spoken of: behind an empty trace, and behind a reset that is waited out. -/
theorem witness_answersMeaningful : answersMeaningful ready [writeEntry 3 0xFF] ∧
    answersMeaningful ready [writeEntry 3 0x06] ∧ answersMeaningful ready [readEntry 0 0xAA] ∧
    answersMeaningful ready [resetEntry] ∧ answersMeaningful ready [startEntry] ∧
    answersMeaningful ready [startEntry, sampleEntry ⟨0xFF, 0xFF, 0xFE⟩] ∧
    answersMeaningful { ready with trace := [resetEntry, postResetWaitEntry] } [readEntry 0 0, writeEntry 0 0x54] := by
  unfold answersMeaningful; decide
theorem witness_answersMeaningful_operations :
    answersMeaningful ready [resetEntry, postResetWaitEntry, writeEntry 0 0x00, writeEntry 1 0x04, writeEntry 2 0x10,
      writeEntry 3 0x00] ∧
    answersMeaningful ready [trailingResetEntry, writeEntry 0 0x00, writeEntry 1 0x04, writeEntry 2 0x10,
      writeEntry 3 0x00] ∧
    answersMeaningful ready [readEntry 0 0xAA, writeEntry 0 0x8A, startEntry, sampleEntry ⟨0xFF, 0xFF, 0xFE⟩] ∧
    answersMeaningful ready [readEntry 0 0xAA, readEntry 1 0xBB, readEntry 2 0xCC, readEntry 3 0xDD] := by
  unfold answersMeaningful; decide
theorem witness_ResponderReadsBackWhatWasWritten : ready.params.link = .responder ∧
    (∀ i ∈ [Instr.wreg 2 0x55, .start], mayChange 3 i = false) ∧
    ∃ t t' u, exec (.wreg 3 0xFF) ready = .next t ∧ t.status = .ok ∧ leadsTo [.wreg 2 0x55, .start] t t' ∧
      exec (.rreg 3) t' = .next u ∧ u.status = .ok ∧ u.trace.length - ready.trace.length = 4 ∧
      (∀ k, 0 < k → k < 4 → quietAt k ready) ∧ resetSettled u.trace = true :=
  ⟨rfl, by decide, _, _, _, rfl, rfl, ⟨_, rfl, _, rfl, rfl⟩, rfl, rfl, rfl,
    fun k h0 h4 => by interval_cases k <;> exact Or.inr rfl, by decide⟩
theorem witness_SettersReadThenWriteBack : echo.seq = .idle ∧ linkOk 2 echo ∧
    [Instr.setMux .v15, .setGain .factor128, .setPgaBypass .v1, .setDataRate .v6, .setOperatingMode .v3,
      .setConversionMode .v1, .setTempSensorMode .v1, .setBurnoutCurrent .v1, .setVrefSelect .v3, .setFirFilter .v3,
      .setLowSideSwitch .v1, .setIdacCurrent .v7, .setIdac1Route .reserved, .setIdac2Route .v0, .setDrdyMode .v1,
      .setFieldRaw .dataRate 7].all (fun i => (setterTarget echo.params i).isSome) = true := by
  unfold linkOk; decide
theorem witness_SetterOverwritesExternalChange : setterTarget ready.params (.setGain .factor4) = some (.gain, 2) ∧
    ready.seq = .idle ∧ ready.params.link = .responder ∧ linkOk 2 ready ∧ Field.mux ≠ .gain ∧
    fieldReg .mux = fieldReg .gain ∧ (3 : RegAddr) ≠ fieldReg .gain ∧
    ∃ t, exec (.setGain .factor4) ready = .next t ∧ resetSettled t.trace = true :=
  ⟨rfl, rfl, rfl, by unfold linkOk; decide, by decide, rfl, by decide, _, rfl, by decide⟩
theorem witness_RawSetterEqualsTypedSetter : echo.params.exposePrimitives = true ∧
    setterTarget echo.params (.setIdac1Route .reserved) = some (.idac1Route, 7) := by decide
theorem witness_BeginResetsWaitsAndWritesDefaults : ready.seq = .idle ∧
    ready.params.placement = .ownTransaction ∧ linkOk 6 ready ∧
    (let s : State := { ready with params := { ready.params with placement := .trailing } }
     s.params.placement = .trailing ∧ linkOk 5 s) := by unfold linkOk; decide
theorem witness_BeginLeavesTheDefaultBytes : ready.params.link = .responder ∧ ready.seq = .idle ∧
    (∀ k, 0 < k → k < 6 → quietAt k ready) ∧
    ∃ t, exec .beginInit ready = .next t ∧ t.status = .ok ∧ resetSettled t.trace = true :=
  ⟨rfl, rfl, fun k h0 h6 => by interval_cases k <;> exact Or.inr rfl, _, rfl, rfl, by decide⟩
theorem witness_BeginFaultLeavesRegistersPartlyInitialised_reset :
    let s := bench anyCfg [failing 0x77]
    s.params.link = .responder ∧ s.seq = .idle ∧ 0 < opLength s.params .beginInit ∧ linkOk 0 s ∧
    (turnAt 0 s).fault = some ⟨1⟩ ∧ (∀ j, j ≤ 0 → quietAt j s) ∧
    ∃ t, exec .beginInit s = .next t ∧ resetSettled t.trace = true :=
  ⟨rfl, rfl, by decide, by unfold linkOk; decide, rfl, fun j h => by interval_cases j; exact Or.inr rfl, _, rfl,
    by decide⟩
theorem witness_BeginFaultLeavesRegistersPartlyInitialised_last :
    let s := bench anyCfg [quiet 0, quiet 0, quiet 0, quiet 0, quiet 0, failing 0x77]
    5 < opLength s.params .beginInit ∧ linkOk 5 s ∧ (turnAt 5 s).fault = some ⟨1⟩ ∧ (∀ j, j ≤ 5 → quietAt j s) ∧
    ∃ t, exec .beginInit s = .next t ∧ resetSettled t.trace = true :=
  ⟨by decide, by unfold linkOk; decide, rfl, fun j h => by interval_cases j <;> exact Or.inr rfl, _, rfl, by decide⟩
theorem witness_BeginFaultLeavesRegistersPartlyInitialised_trailing :
    let b := bench anyCfg [quiet 0, quiet 0, quiet 0, quiet 0, failing 0x77]
    let s : State := { b with params := { b.params with placement := .trailing } }
    s.params.link = .responder ∧ s.seq = .idle ∧ 4 < opLength s.params .beginInit ∧ linkOk 4 s ∧
    (turnAt 4 s).fault = some ⟨1⟩ ∧ (∀ j, j ≤ 4 → quietAt j s) ∧
    ∃ t, exec .beginInit s = .next t ∧ resetSettled t.trace = true :=
  ⟨rfl, rfl, by decide, by unfold linkOk; decide, rfl, fun j h => by interval_cases j <;> exact Or.inr rfl, _, rfl,
    by decide⟩
theorem witness_Reads : ready.seq = .idle ∧ linkOk 4 ready ∧ linkOk 2 ready ∧
    enumEncode ready.params (.mux .v8) = some 8 := by unfold linkOk; decide
theorem witness_ReadChannelIsSetMuxThenReadSingleShot :
    (∃ t, exec (.setMux .v8) ready = .next t ∧ t.status = .ok) ∧
    ∃ t, exec (.setMux .v8) (bench anyCfg [quiet 0, failing 0]) = .next t ∧ t.status ≠ .ok :=
  ⟨⟨_, rfl, rfl⟩, _, rfl, by decide⟩
theorem witness_FirstFaultAbortsTheOperation :
    let s := bench anyCfg [quiet 0, quiet 0, quiet 0, failing 0]
    Instr.dumpRegisters.invocable s.params = true ∧ s.seq = .idle ∧ 3 < opLength s.params .dumpRegisters ∧
    linkOk 3 s ∧ (turnAt 3 s).fault = some ⟨1⟩ := by unfold linkOk; decide
theorem witness_EveryTransactionOkCompletesTheOperation : Instr.beginInit.invocable ready.params = true ∧
    ready.seq = .idle ∧ opLength ready.params .beginInit = 6 ∧ linkOk 6 ready ∧
    (Instr.sdec 0 0 0).invocable ready.params = true ∧ opLength ready.params (.sdec 0 0 0) = 0 := by
  unfold linkOk; decide
theorem witness_FaultedTransactionFarEnd :
    let s := bench anyCfg [failing 0x77]
    s.seq = .idle ∧ s.params.exposePrimitives = true ∧ (turnAt 0 s).fault = some ⟨1⟩ ∧
    (∃ t, exec (.wreg 0 0x12) s = .next t) ∧ (∃ t, exec (.rreg 0) s = .next t) ∧ (∃ t, exec .start s = .next t) ∧
    (∃ t, exec .sread s = .next t) ∧ (∃ t, exec .reset s = .next t) ∧ (1 : RegAddr) ≠ 0 ∧
    answersMeaningful s [failed (writeEntry 0 0x12) ⟨1⟩] ∧ answersMeaningful s [failed resetEntry ⟨1⟩] :=
  ⟨rfl, rfl, rfl, ⟨_, rfl⟩, ⟨_, rfl⟩, ⟨_, rfl⟩, ⟨_, rfl⟩, ⟨_, rfl⟩, by decide, by unfold answersMeaningful; decide,
    by unfold answersMeaningful; decide⟩
theorem witness_FaultedTransactionFarEnd_step :
    let s : State := { bench anyCfg [failing 0x77] with seq := .busy .beginInit 0 }
    s.seq = .busy .beginInit 0 ∧ (turnAt 0 s).fault = some ⟨1⟩ ∧ (∃ t, step s = .next t) ∧
    answersMeaningful s [⟨(Frame.reset false).subOps, [], some ⟨1⟩⟩] :=
  ⟨rfl, rfl, ⟨_, rfl⟩, by unfold answersMeaningful; decide⟩
theorem witness_InvocableOperationsAlwaysHaveAStep :
    (Instr.setFieldRaw .dataRate 7).invocable State.reset.params = true ∧ State.reset.seq = .idle := by decide
theorem witness_OperandsOutsideTheirTypesAreRefused : ready.seq = .idle ∧ 2 ^ fieldWidth .gain ≤ (8 : Byte).toNat ∧
    ready.params.exposePrimitives = true ∧ enumEncode ready.params (.dataRate .v7) = none ∧
    variantOperand (.setDataRate .v7) = some (.dataRate .v7) ∧ variantOperand (.readChannel .unrecognized) =
      some (.mux .unrecognized) ∧ enumEncode ready.params (.mux .unrecognized) = none ∧
    fallbackOf .gain = some (.gain .unrecognized) ∧
    Instr.reset.needsExposure = true ∧ (Instr.enumEncode (.gain .unrecognized)).needsExposure = true ∧
    (Instr.setGain .unrecognized).needsExposure = false ∧ (Instr.encode .gain 0 8).invocable ready.params = false ∧
    (let s : State := { ready with params := { ready.params with exposePrimitives := false } }
     s.seq = .idle ∧ s.params.exposePrimitives = false) := by decide
theorem witness_BusyPortRefusesEveryInvocation : (invoke .beginInit ready).seq = .busy .beginInit 0 := by decide
theorem witness_OnlyAnImpossibleSequencerPositionFaults :
    step { ready with seq := .busy .reset 1 } = .fault .sequencerOutOfRange := rfl

/-- A state in the middle of a setter: its read is the last transaction of the trace. -/
def midSetter : State :=
  { bench anyCfg [quiet 0] with seq := .busy (.setGain .factor4) 1, tmp := 0xA4, trace := [readEntry 0 0xAA] }

theorem witness_StepKeepsTheInvariant : Inv midSetter ∧ ∃ t, step midSetter = .next t ∧ t.seq = .idle := by
  refine ⟨⟨⟨⟨_, rfl, by decide⟩, by decide, ?_⟩, ?_⟩, _, rfl, rfl⟩
  · intro e he
    have : e = readEntry 0 0xAA := by simpa [midSetter] using he
    rw [this]; rfl
  · intro e he
    have : e = readEntry 0 0xAA := by simpa [midSetter] using he
    rw [this]
    exact ⟨⟨.rreg 0, rfl⟩, rfl⟩
theorem witness_NextStep : ∃ t, step { ready with cmd := [.named .beginInit] } = .next t := ⟨_, rfl⟩
theorem witness_LifeChangesOnlyWhenBeginCompletes : (∃ t, exec .beginInit ready = .next t ∧ t.life = .begun) ∧
    (∃ t, exec .reset ready = .next t ∧ t.life = .constructed) ∧
    (∃ t, step { ready with cmd := [.named .beginInit] } = .next t ∧ t.life ≠ ready.life) ∧
    ∃ t, step { ready with seq := .busy .beginInit 5 } = .next t ∧ t.seq = .idle ∧ t.life = .begun :=
  ⟨⟨_, rfl, rfl⟩, ⟨_, rfl, rfl⟩, ⟨_, rfl, by decide⟩, _, rfl, rfl, rfl⟩
theorem witness_UnreadStateDoesNotMatter : (∃ t, exec (.readChannel .v8) ready = .next t) ∧
    answersMeaningful ready [readEntry 0 0xAA, writeEntry 0 0x8A, startEntry, sampleEntry ⟨0xFF, 0xFF, 0xFE⟩] ∧
    answersMeaningful (withUnread ready { ready with trace := [resetEntry, postResetWaitEntry], tmp := 0x55 })
      [readEntry 0 0xAA, writeEntry 0 0x8A, startEntry, sampleEntry ⟨0xFF, 0xFF, 0xFE⟩] :=
  ⟨⟨_, rfl⟩, by unfold answersMeaningful; decide, by unfold answersMeaningful; decide⟩
theorem witness_StepRunsThePresentedOperation : ready.seq = .idle ∧
    ({ ready with cmd := [.named .beginInit] } : State).cmd = .named .beginInit :: [] ∧
    decode [0x4C, 0xFF] = .ok (.wreg 3 0xFF, []) ∧
    ({ ready with cmd := [.wire [0x4C, 0xFF]] } : State).cmd = .wire [0x4C, 0xFF] :: [] := by decide
theorem witness_DisabledExternalHasNoStep_unscripted :
    let s : State := { State.reset with params := { Config.defaultParams with externalInterference := false } }
    s.params.externalInterference = false ∧ s.script = [] ∧ (invoke .start s).params = s.params := ⟨rfl, rfl, rfl⟩
theorem witness_IdleEngineWaitsForHost : State.reset.seq = .idle ∧ State.reset.cmd = [] := by decide
theorem witness_OperationIsItsTransactionsOneByOne : 0 < opLength ready.params .beginInit ∧
    ∃ t, exec .beginInit ready = .next t ∧ t.trace.length = 6 := ⟨by decide, _, rfl, rfl⟩
theorem witness_DisabledExternalHasNoStep :
    let s : State := { ready with params := { ready.params with externalInterference := false } }
    s.params.externalInterference = false ∧ s.script = List.replicate 6 (quiet 0) := ⟨rfl, rfl⟩
theorem witness_BeginKeepsResetSettled : resetWaitedOut ready.trace = true ∧
    (∃ t, exec .beginInit ready = .next t ∧ t.status = .ok) ∧
    resetWaitedOut [resetEntry, postResetWaitEntry] = true ∧ resetWaitedOut [resetEntry] = false :=
  ⟨by decide, ⟨_, rfl, rfl⟩, by decide, by decide⟩
theorem witness_PartialFailureIsNotRolledBack_setter :
    let read := bench anyCfg [failing 0x77]
    let write := bench anyCfg [quiet 0, failing 0x77]
    setterTarget read.params (.setGain .factor4) = some (.gain, 2) ∧ read.seq = .idle ∧
    (turnAt 0 read).fault = some ⟨1⟩ ∧ answersMeaningful read [failed (readEntry 0 0) ⟨1⟩] ∧
    setterTarget write.params (.setFieldRaw .drdyMode 1) = some (.drdyMode, 1) ∧ write.seq = .idle ∧
    linkOk 1 write ∧ (turnAt 1 write).fault = some ⟨1⟩ ∧
    answersMeaningful write [readEntry 3 0xDD, failed (writeEntry 3 0xDF) ⟨1⟩] := by
  unfold linkOk answersMeaningful; decide
theorem witness_PartialFailureIsNotRolledBack_channel :
    let s := bench anyCfg [quiet 0, quiet 0, failing 0]
    let s' := bench anyCfg [quiet 0, quiet 0, quiet 0, failing 0]
    enumEncode s.params (.mux .v8) = some 8 ∧ s.params.link = .responder ∧ s.seq = .idle ∧ linkOk 2 s ∧
    (turnAt 2 s).fault = some ⟨1⟩ ∧ quietAt 2 s ∧ linkOk 3 s' ∧ (turnAt 3 s').fault = some ⟨1⟩ ∧
    (∀ j, 2 ≤ j → j ≤ 3 → quietAt j s') ∧
    (∃ t, exec (.readChannel .v8) s = .next t ∧ resetSettled t.trace = true ∧ t.cfg.r0 = 0x8A) ∧
    ∃ t, exec (.readChannel .v8) s' = .next t ∧ resetSettled t.trace = true ∧ t.cfg.r0 = 0x8A :=
  ⟨rfl, rfl, rfl, by unfold linkOk; decide, rfl, Or.inr rfl, by unfold linkOk; decide, rfl,
    fun j h2 h3 => by interval_cases j <;> exact Or.inr rfl, ⟨_, rfl, by decide, rfl⟩, _, rfl, by decide, rfl⟩
theorem witness_PartialFailureIsNotRolledBack_sample :
    let s := bench anyCfg [quiet 0, failing 0]
    s.seq = .idle ∧ linkOk 1 s ∧ (turnAt 1 s).fault = some ⟨1⟩ ∧
    answersMeaningful s [startEntry, failed (sampleEntry ⟨0, 0, 0⟩) ⟨1⟩] := by
  unfold linkOk answersMeaningful; decide
theorem witness_PartialFailureIsNotRolledBack_start :
    let s := bench anyCfg [failing 0]
    s.seq = .idle ∧ (turnAt 0 s).fault = some ⟨1⟩ ∧ answersMeaningful s [failed startEntry ⟨1⟩] := by
  unfold answersMeaningful; decide
theorem witness_PartialFailureIsNotRolledBack_dump :
    let s := bench anyCfg [quiet 0, quiet 0, quiet 0, failing 0]
    s.seq = .idle ∧ linkOk 0 (bench anyCfg [failing 0]) ∧ (turnAt 0 (bench anyCfg [failing 0])).fault = some ⟨1⟩ ∧
    linkOk 3 s ∧ (turnAt 3 s).fault = some ⟨1⟩ ∧
    ∃ t, exec .dumpRegisters s = .next t ∧ resetSettled t.trace = true ∧ t.cfg = anyCfg :=
  ⟨rfl, by unfold linkOk; decide, rfl, by unfold linkOk; decide, rfl, _, rfl, by decide, rfl⟩
theorem witness_SequencerAdvancesByOneTransaction :
    let op := Instr.readChannel .v8
    op.invocable ready.params = true ∧ opLength ready.params op = 4 ∧
    (∃ t, step { ready with seq := .busy op 0 } = .next t ∧ t.seq = .busy op 1) ∧
    (∃ t, step { ready with seq := .busy op 3 } = .next t ∧ t.seq = .idle) ∧
    ∃ t, step { bench anyCfg [failing 0] with seq := .busy op 1 } = .next t ∧ t.seq = .idle :=
  ⟨by decide, by decide, ⟨_, rfl, rfl⟩, ⟨_, rfl, rfl⟩, _, rfl, rfl⟩
theorem witness_DirectResetThenTrafficIsUnsettled :
    ∃ t u, exec .reset ready = .next t ∧ 0 < opLength ready.params .dumpRegisters ∧
      exec .dumpRegisters t = .next u := ⟨_, _, rfl, by decide, rfl⟩

end Sys2Proof.Tests
end

section
/-! The layer the state's obligations rest on: the shape of every expansion, one inversion lemma for `step`, and the
state a transaction answered with `Ok` leaves. -/

namespace Sys2Proof.Machine

open Sys2Proof.Safety Sys2Proof.Claims

/-! ### The shape of every expansion -/

/-- The plans of `planOf`, one constructor per shape (R84 to R88, R91 to R111). -/
inductive PlanShape (p : Config.Params) : Instr → Plan → Prop where
  | pureUnit {i} (h : isPure i = true) : PlanShape p i ⟨[], .nothing⟩
  | wreg (a v) : PlanShape p (.wreg a v) ⟨[.command (.wreg a v)], .nothing⟩
  | rreg (a) : PlanShape p (.rreg a) ⟨[.readByte a], .rbyte⟩
  | reset : PlanShape p .reset ⟨[.command (.reset false)], .nothing⟩
  | start : PlanShape p .start ⟨[.command .start], .nothing⟩
  | sread : PlanShape p .sread ⟨[.readSample], .sample⟩
  | setter {i f c} (h : setterTarget p i = some (f, c)) : PlanShape p i ⟨readModifyWrite f c, .nothing⟩
  | beginInit : PlanShape p .beginInit ⟨resetPhases p.placement ++ defaultWrites, .begun⟩
  | readSingleShot : PlanShape p .readSingleShot ⟨singleShotPhases, .result⟩
  | readChannel {m c} (h : enumEncode p (.mux m) = some c) :
      PlanShape p (.readChannel m) ⟨readModifyWrite .mux c ++ singleShotPhases, .result⟩
  | dumpRegisters : PlanShape p .dumpRegisters ⟨[.readDump 0, .readDump 1, .readDump 2, .readDump 3], .dump⟩

/-- A typed setter's plan is the read-modify-write of its variant's code. -/
theorem typedSetter_inv {p : Config.Params} {x : Variant} {pl : Plan} (h : typedSetter p x = .ok pl) :
    ∃ c, enumEncode p x = some c ∧ pl = ⟨readModifyWrite (variantField x) c, .nothing⟩ := by
  cases hc : enumEncode p x with
  | none => rw [typedSetter_error hc] at h; cases h
  | some c => rw [typedSetter_ok hc] at h; cases h; exact ⟨c, rfl, rfl⟩

/-- The raw setter's plan is there where it is exposed and its operands are inside their types (R107). -/
theorem planSetFieldRaw_inv {p : Config.Params} {f : Field} {c : Byte} {pl : Plan}
    (h : planSetFieldRaw p f c = .ok pl) :
    setterTarget p (.setFieldRaw f c) = some (f, c) ∧ pl = ⟨readModifyWrite f c, .nothing⟩ := by
  obtain ⟨he, h⟩ := exposed_ok h
  by_cases hf : f = .reserved0
  · subst hf; simp [checkedField, Field.enumerated] at h
  · cases hc : codeFits f c with
    | false => simp [checkedField, Field.enumerated, hf, checkedCode_error hc] at h
    | true =>
      simp only [checkedField, Field.enumerated, bne_iff_ne, ne_eq, hf, not_false_eq_true, if_true,
        checkedCode_ok hc] at h
      cases h
      exact ⟨if_pos ⟨he, hf, by simpa [codeFits] using hc⟩, rfl⟩

/-- Every expansion has one of the shapes. -/
theorem planShape_of_planOf {p : Config.Params} {i : Instr} {pl : Plan} (h : planOf p i = .ok pl) :
    PlanShape p i pl := by
  have typed : ∀ x, typedSetter p x = .ok pl →
      setterTarget p i = (enumEncode p x).map (fun c => (variantField x, c)) → PlanShape p i pl := by
    intro x hx hi
    obtain ⟨c, hc, rfl⟩ := typedSetter_inv hx
    exact .setter (by rw [hi, hc]; rfl)
  cases i
  case setFieldRaw f c => obtain ⟨ht, rfl⟩ := planSetFieldRaw_inv h; exact .setter ht
  case wreg a v => cases (exposed_ok h).2; exact .wreg a v
  case rreg a => cases (exposed_ok h).2; exact .rreg a
  case reset => cases (exposed_ok h).2; exact .reset
  case start => cases (exposed_ok h).2; exact .start
  case sread => cases (exposed_ok h).2; exact .sread
  case beginInit => cases h; exact .beginInit
  case readSingleShot => cases h; exact .readSingleShot
  case dumpRegisters => cases h; exact .dumpRegisters
  case readChannel m =>
    cases hc : enumEncode p (.mux m) with
    | none => simp [planOf, planReadChannel, checkedVariant_error hc] at h
    | some c =>
      simp only [planOf, planReadChannel, checkedVariant_ok hc] at h
      cases h
      exact .readChannel hc
  case encode | extract | decode0 | decode1 | decode2 | decode3 | enumEncode | enumDecode | sdec =>
    cases h; exact .pureUnit rfl
  all_goals exact typed _ h rfl

/-- A setter runs the read-modify-write of its target (R91). -/
theorem planOf_setter {p : Config.Params} {i : Instr} {f : Field} {c : Byte}
    (h : setterTarget p i = some (f, c)) : planOf p i = .ok ⟨readModifyWrite f c, .nothing⟩ := by
  have typed : ∀ x, (enumEncode p x).map (fun c => (variantField x, c)) = some (f, c) →
      typedSetter p x = .ok ⟨readModifyWrite f c, .nothing⟩ := by
    intro x hx
    obtain ⟨c', hc, heq⟩ := Option.map_eq_some_iff.1 hx
    cases heq
    exact typedSetter_ok hc
  cases i
  case setFieldRaw g d =>
    simp only [setterTarget, Option.ite_none_right_eq_some, Option.some.injEq, Prod.mk.injEq] at h
    obtain ⟨⟨he, hg, hd⟩, rfl, rfl⟩ := h
    simp [planOf, planSetFieldRaw, exposed_true _ he, checkedField, Field.enumerated, hg,
      checkedCode_ok (f := g) (c := d) (by simpa [codeFits] using hd)]
  case setMux | setGain | setPgaBypass | setDataRate | setOperatingMode | setConversionMode | setTempSensorMode
      | setBurnoutCurrent | setVrefSelect | setFirFilter | setLowSideSwitch | setIdacCurrent | setIdac1Route
      | setIdac2Route | setDrdyMode => exact typed _ h
  all_goals cases h

/-- A setter is an operation of two transactions. -/
theorem opLength_setter {p : Config.Params} {i : Instr} {fc : Field × Byte} (h : setterTarget p i = some fc) :
    opLength p i = 2 := by
  unfold setterTarget at h
  split at h
  case h_17 => cases h
  all_goals rfl

theorem setter_ne_beginInit {p : Config.Params} {i : Instr} {fc : Field × Byte} (h : setterTarget p i = some fc) :
    i ≠ .beginInit := by
  rintro rfl; cases h

/-- The pure function units are the operations without transactions. -/
theorem opLength_eq_zero_iff (p : Config.Params) (i : Instr) : opLength p i = 0 ↔ isPure i = true := by
  cases i
  case beginInit => simp only [opLength, isPure]; split <;> simp
  all_goals simp [opLength, isPure]

theorem isPure_eq_false {p : Config.Params} {i : Instr} (h : 0 < opLength p i) : isPure i = false :=
  Bool.eq_false_iff.2 fun hp => by rw [(opLength_eq_zero_iff p i).2 hp] at h; cases h

/-- The expansion of an operation has `len(op)` transactions (R21). -/
theorem plan_length_eq {p : Config.Params} {i : Instr} {pl : Plan} (h : planOf p i = .ok pl) :
    pl.phases.length = opLength p i := by
  cases planShape_of_planOf h with
  | pureUnit hp => exact ((opLength_eq_zero_iff p i).2 hp).symm
  | setter ht => rw [opLength_setter ht]; rfl
  | beginInit => simp only [opLength]; cases p.placement <;> rfl
  | _ => rfl

/-- Only `BEGIN` ends with `LIFE <- BEGUN` (R22). -/
theorem plan_finish_begun {p : Config.Params} {i : Instr} {pl : Plan} (h : planOf p i = .ok pl) :
    pl.finish = .begun ↔ i = .beginInit := by
  cases planShape_of_planOf h with
  | pureUnit hp => exact iff_of_false (by simp) (by rintro rfl; cases hp)
  | setter ht => exact iff_of_false (by simp) (setter_ne_beginInit ht)
  | beginInit => simp
  | _ => simp

/-! ### One step -/

/-- What a step that answers a next state has done: one transaction of the operation in progress, nothing, or the
operation presented, run to its end (R21, R133). -/
theorem step_next_cases {s t : State} (h : step s = .next t) :
    (∃ i k pl ph, s.seq = .busy i k ∧ planOf s.params i = .ok pl ∧ pl.phases[k]? = some ph ∧
      t = advance i pl k ph s) ∨
    (s.seq = .idle ∧ s.cmd = [] ∧ t = s) ∨
    (s.seq = .idle ∧ ∃ c cs i, s.cmd = c :: cs ∧ fetchCommand c = .ok i ∧ exec i { s with cmd := cs } = .next t) := by
  unfold step at h
  split at h
  next i k hs =>
    unfold resume at h
    split at h
    · cases h
    next pl hpl =>
      split at h
      next ph hph => cases h; exact .inl ⟨i, k, pl, ph, hs, hpl, hph, rfl⟩
      next => cases h
  next hs =>
    split at h
    next hc => cases h; exact .inr (.inl ⟨hs, hc, rfl⟩)
    next c cs hc =>
      split at h
      next i hi => exact .inr (.inr ⟨hs, c, cs, i, hc, hi, h⟩)
      next => cases h

/-- A step of an ENGINE inside an expansion takes the transaction at its position. -/
theorem step_busy {s : State} {i : Instr} {k : Nat} {pl : Plan} {ph : Phase} (hs : s.seq = .busy i k)
    (hpl : planOf s.params i = .ok pl) (hph : pl.phases[k]? = some ph) :
    step s = .next (advance i pl k ph s) := by
  simp [step, hs, resume, hpl, hph]

/-- A step of an `IDLE` ENGINE runs the operation presented. -/
theorem step_idle {s : State} {c : Command} {cs : List Command} {i : Instr} (hs : s.seq = .idle)
    (hc : s.cmd = c :: cs) (hi : fetchCommand c = .ok i) : step s = exec i { s with cmd := cs } := by
  simp [step, hs, hc, hi]

/-- A completed operation presents a value. -/
theorem complete_response (fin : Finish) (s : State) :
    ∃ v, (complete fin s).response = some (.ok v) := ⟨_, rfl⟩

end Sys2Proof.Machine
end

section
/-! The obligations about single steps: the invariant, the sequencer's position, and an operation as its steps. -/

namespace Sys2Proof.Proofs

open Sys2Proof.Machine Sys2Proof.Safety Sys2Proof.Claims

/-! ### The invariant (O47) -/

/-- The entry a transaction appends is in a format of R57, with the bytes its answer allows (R35). -/
theorem entryOf_inFormat (f : Frame) (s : State) : entryInFormat (entryOf f (replyTo f s)) := by
  refine ⟨⟨f, rfl⟩, ?_⟩
  cases h : (currentTurn s).fault with
  | none => simpa [entryOf, h] using replyTo_rx_length f s h
  | some e => simpa [entryOf, h] using replyTo_rx_of_fault f s e h

/-- A transaction keeps every recorded transaction in format. -/
theorem advance_entriesInFormat (i : Instr) (pl : Plan) (k : Nat) (ph : Phase) {s : State}
    (h : ∀ e ∈ s.trace, entryInFormat e) : ∀ e ∈ (advance i pl k ph s).trace, entryInFormat e := by
  intro e he
  rw [advance_trace, List.mem_append, List.mem_singleton] at he
  rcases he with he | rfl
  · exact h e he
  · exact entryOf_inFormat _ s

theorem exec_entriesInFormat {i : Instr} {s t : State} (h : exec i s = .next t)
    (hs : ∀ e ∈ s.trace, entryInFormat e) : ∀ e ∈ t.trace, entryInFormat e := by
  obtain ⟨_, ⟨_, _, v, _, rfl⟩ | ⟨_, pl, _, rfl⟩⟩ := exec_next_cases h
  · exact hs
  · exact runPhases_keeps (fun u => ∀ e ∈ u.trace, entryInFormat e) i pl 0 pl.phases (invoke i s)
      (fun k ph u _ hu => advance_entriesInFormat i pl k ph hu) hs

theorem seqInRange_of_idle {s : State} (h : s.seq = .idle) : seqInRange s := by simp [seqInRange, h]

theorem seqInRange_busy {s : State} {i : Instr} {k : Nat} (h : s.seq = .busy i k) :
    seqInRange s ↔ (∃ pl, planOf s.params i = .ok pl ∧ k < pl.phases.length) ∧
      k ≤ s.trace.length ∧ ∀ e ∈ s.trace.drop (s.trace.length - k), e.error = none := by
  simp [seqInRange, h]

/-- A transaction keeps `SEQ` in range: an abort and a completion leave it `IDLE`; an advance comes behind one more
transaction answered with `Ok`, the last of the trace. -/
theorem advance_seqInRange {i : Instr} {pl : Plan} {k : Nat} {ph : Phase} {s : State}
    (hs : s.seq = .busy i k) (hpl : planOf s.params i = .ok pl) (h : seqInRange s) :
    seqInRange (advance i pl k ph s) := by
  rcases advance_cases i pl k ph s with ⟨e, _, ht⟩ | ⟨hok, hk, ht⟩ | ⟨_, _, ht⟩
  · exact seqInRange_of_idle (by rw [ht]; rfl)
  · obtain ⟨_, hle, hearlier⟩ := (seqInRange_busy hs).1 h
    have hseq : (advance i pl k ph s).seq = .busy i (k + 1) := by rw [ht]
    have hlen : s.trace.length + 1 - (k + 1) = s.trace.length - k := by omega
    rw [seqInRange_busy hseq, advance_params, advance_trace, List.length_append, List.length_singleton, hlen,
      List.drop_append_of_le_length (Nat.sub_le _ _)]
    refine ⟨⟨pl, hpl, hk⟩, by omega, fun e he => ?_⟩
    rcases List.mem_append.1 he with he | he
    · exact hearlier e he
    · rw [List.mem_singleton.1 he]; simp [entryOf, hok]
  · exact seqInRange_of_idle (by rw [ht]; simp)

/-- Settles O47: a step inside an expansion keeps both halves by the lemmas on `advance`; an operation run at once ends
`IDLE` and appends only entries in format. -/
theorem stepKeepsTheInvariant : Obligations.StepKeepsTheInvariant := by
  rintro s t ⟨hseq, htrace⟩ h
  rcases step_next_cases h with ⟨i, k, pl, ph, hs, hpl, _, rfl⟩ | ⟨_, _, rfl⟩ | ⟨_, c, cs, i, _, _, hex⟩
  · exact ⟨advance_seqInRange hs hpl hseq, advance_entriesInFormat i pl k ph htrace⟩
  · exact ⟨hseq, htrace⟩
  · exact ⟨seqInRange_of_idle (exec_seq hex), exec_entriesInFormat hex htrace⟩

/-- Settles O48: at reset `SEQ` is `IDLE` and the trace is empty. -/
theorem resetHasTheInvariant : Obligations.ResetHasTheInvariant :=
  ⟨seqInRange_of_idle rfl, fun _ he => absurd he List.not_mem_nil⟩

/-- Settles O49: the four fields of `State.reset`. -/
theorem constructionState : Obligations.ConstructionState := ⟨rfl, rfl, rfl, rfl⟩

/-! ### What a step leaves, and what it runs -/

/-- Settles O50, by the cases of a step. -/
theorem stepAppendsToTraceAndKeepsParameters : Obligations.StepAppendsToTraceAndKeepsParameters := by
  intro s t h
  rcases step_next_cases h with ⟨i, k, pl, ph, _, _, _, rfl⟩ | ⟨_, _, rfl⟩ | ⟨_, c, cs, i, _, _, hex⟩
  · exact ⟨advance_params i pl k ph s, _, advance_trace i pl k ph s⟩
  · exact ⟨rfl, [], (List.append_nil _).symm⟩
  · obtain ⟨new, hnew⟩ := exec_trace hex
    exact ⟨(exec_params_cmd hex).1, new, hnew⟩

/-- Settles O45: both forms of an operation's meaning look at `SEQ` first. -/
theorem busyPortRefusesEveryInvocation : Obligations.BusyPortRefusesEveryInvocation := by
  intro i j k s hs
  cases hp : isPure i with
  | true => rw [exec_of_pure i s hp, present_busy hs]
  | false => rw [exec_of_bus i s hp, perform_busy hs]

/-- Settles O53: a named operation is itself, command bytes are what `decode` reads from them. -/
theorem stepRunsThePresentedOperation : Obligations.StepRunsThePresentedOperation := by
  intro s i cs hs
  refine ⟨fun hc => step_idle hs hc rfl, fun bytes rest hd hc => step_idle hs hc ?_⟩
  simp [fetchCommand, hd]

/-- Settles O20: the table is finite, so each clause is a check of every row, register or pair of fields. -/
theorem masksPartitionEachRegister : Obligations.MasksPartitionEachRegister := by
  refine ⟨?_, ?_, by decide, ?_, ?_⟩
  · intro f; cases f <;> decide
  · intro f; cases f <;> decide
  · intro f; cases f <;> decide
  · intro a f g
    rcases regAddr_cases a with rfl | rfl | rfl | rfl <;> cases f <;> cases g <;> decide

/-! ### The sequencer's position (O60) and the operation as its steps (O55) -/

/-- Settles O60: an invocable operation at a position inside its expansion has a transaction there, and `advance` says
what becomes of `SEQ`. -/
theorem sequencerAdvancesByOneTransaction : Obligations.SequencerAdvancesByOneTransaction := by
  intro s op k hinv hs hk
  obtain ⟨pl, hpl⟩ := plan_of_invocable hinv (isPure_eq_false (Nat.zero_lt_of_lt hk))
  have hlen := plan_length_eq hpl
  rw [← hlen] at hk ⊢
  have hph := List.getElem?_eq_getElem hk
  refine ⟨_, _, step_busy hs hpl hph, advance_trace .., replyTo_error .., ?_, ?_, ?_⟩
  · intro hok hnext
    rw [advance_ok op pl k _ s hok hnext]
  · intro hok hlast
    rw [advance_last op pl k _ s hok (by omega)]
    exact ⟨complete_seq .., complete_status .., complete_response ..⟩
  · intro e he
    rw [advance_fault op pl k _ s e he]
    exact ⟨rfl, rfl, rfl⟩

/-- The rest of an expansion, run at once, is as many steps as it issues transactions. -/
theorem run_eq_runPhases {i : Instr} {pl : Plan} (phs : List Phase) {k : Nat} {s : State}
    (hs : s.seq = .busy i k) (hpl : planOf s.params i = .ok pl) (hphs : pl.phases.drop k = phs) :
    ∃ n ≤ phs.length, (runPhases i pl k phs s).trace.length = s.trace.length + n ∧
      Host.Core.run Sys2Proof.core n s = .next (runPhases i pl k phs s) := by
  induction phs generalizing k s with
  | nil => exact ⟨0, le_rfl, rfl, rfl⟩
  | cons ph rest ih =>
    have hph : pl.phases[k]? = some ph := by
      rw [← Nat.add_zero k, ← List.getElem?_drop, hphs]; rfl
    have hrest : pl.phases.drop (k + 1) = rest := by rw [← List.tail_drop, hphs]; rfl
    have hstep : Sys2Proof.core.step s = .next (advance i pl k ph s) := step_busy hs hpl hph
    have hlen : (advance i pl k ph s).trace.length = s.trace.length + 1 := by simp
    have more : ∀ n, Host.Core.run Sys2Proof.core (n + 1) s = Host.Core.run Sys2Proof.core n (advance i pl k ph s) :=
      fun n => by simp only [Host.Core.run, hstep]
    have one : Host.Core.run Sys2Proof.core 1 s = .next (advance i pl k ph s) := more 0
    rcases advance_cases i pl k ph s with ⟨e, he, ht⟩ | ⟨hok, hk, ht⟩ | ⟨hok, hk, ht⟩
    · rw [runPhases_fault i pl k ph rest s e he, ← ht]
      exact ⟨1, by simp, hlen, one⟩
    · rw [runPhases_ok i pl k ph rest s hok hk, ← ht]
      obtain ⟨n, hn, hlen', hrun⟩ := ih (k := k + 1) (s := advance i pl k ph s) (by rw [ht])
        (by rw [advance_params]; exact hpl) hrest
      exact ⟨n + 1, by simpa using hn, by rw [hlen', hlen]; omega, by rw [more, hrun]⟩
    · rw [runPhases_last i pl k ph rest s hok hk, ← ht]
      exact ⟨1, by simp, hlen, one⟩

/-- Settles O55, from the run of the whole expansion. -/
theorem operationIsItsTransactionsOneByOne : Obligations.OperationIsItsTransactionsOneByOne := by
  intro i s t hpos h
  have hbus := isPure_eq_false hpos
  obtain ⟨_, ⟨hp, _⟩ | ⟨_, pl, hpl, rfl⟩⟩ := exec_next_cases h
  · rw [hbus] at hp; cases hp
  · obtain ⟨n, hn, hlen, hrun⟩ := run_eq_runPhases pl.phases (s := invoke i s) rfl hpl rfl
    have hsix := (plan_length hpl hbus).2
    rw [hlen, invoke_trace, Nat.add_sub_cancel_left]
    exact ⟨by omega, hrun⟩

end Sys2Proof.Proofs
end

section
/-! Runs all of whose transactions are answered with `Ok`: the state they leave, and the obligations that speak of
completed operations. -/

namespace Sys2Proof.Machine

open Sys2Proof.Safety Sys2Proof.Claims

/-! ### The environment's choices, transaction by transaction -/

theorem consumeTurn_eq (s : State) :
    consumeTurn s = { s with script := s.script.tail, draws := s.draws + (1 - s.script.length) } := by
  rcases h : s.script with _ | ⟨x, r⟩ <;> simp [consumeTurn, h]

/-- The choices to come depend on the script, the counter and the parameters only. -/
theorem turnAt_congr (k : Nat) {s u : State} (h1 : s.script = u.script) (h2 : s.draws = u.draws)
    (h3 : s.params = u.params) : turnAt k s = turnAt k u := by
  induction k generalizing s u with
  | zero => exact currentTurn_congr h1 h2 h3
  | succ k ih => exact ih (by simp [h1]) (by simp [consumeTurn_eq, h1, h2]) (by simp [h3])

theorem linkOk_congr (n : Nat) {s u : State} (h1 : s.script = u.script) (h2 : s.draws = u.draws)
    (h3 : s.params = u.params) : linkOk n s ↔ linkOk n u := by
  simp only [linkOk, turnAt_congr _ h1 h2 h3]

theorem linkOk_invoke (n : Nat) (i : Instr) (s : State) : linkOk n (invoke i s) ↔ linkOk n s :=
  linkOk_congr n rfl rfl rfl

theorem linkOk_succ (n : Nat) (s : State) :
    linkOk (n + 1) s ↔ (currentTurn s).fault = none ∧ linkOk n (consumeTurn s) := by
  constructor
  · exact fun h => ⟨h 0 (Nat.succ_pos n), fun k hk => h (k + 1) (Nat.succ_lt_succ hk)⟩
  · rintro ⟨h0, h⟩ (_ | k) hk
    · exact h0
    · exact h k (Nat.lt_of_succ_lt_succ hk)

/-! ### The state behind transactions answered with `Ok` -/

/-- The state behind one transaction answered with `Ok`, `SEQ` apart: the answer taken in and its bytes captured. -/
def afterPhase (ph : Phase) (s : State) : State := ph.capture (replyTo (ph.frame s) s).rx (issue (ph.frame s) s)

/-- The state behind transactions all answered with `Ok`, `SEQ` apart. -/
def afterPhases : List Phase → State → State
  | [], s => s
  | ph :: rest, s => afterPhases rest (afterPhase ph s)

@[simp] theorem afterPhase_trace (ph : Phase) (s : State) :
    (afterPhase ph s).trace = s.trace ++ [entryOf (ph.frame s) (replyTo (ph.frame s) s)] := by simp [afterPhase]
@[simp] theorem afterPhase_params (ph : Phase) (s : State) : (afterPhase ph s).params = s.params := by simp [afterPhase]
@[simp] theorem afterPhase_script (ph : Phase) (s : State) : (afterPhase ph s).script = s.script.tail := by
  simp [afterPhase]
@[simp] theorem afterPhase_draws (ph : Phase) (s : State) : (afterPhase ph s).draws = (consumeTurn s).draws := by
  simp [afterPhase]
@[simp] theorem afterPhase_cfg (ph : Phase) (s : State) :
    (afterPhase ph s).cfg = (replyTo (ph.frame s) s).cfg := by simp [afterPhase]
@[simp] theorem afterPhase_life (ph : Phase) (s : State) : (afterPhase ph s).life = s.life := by simp [afterPhase]
@[simp] theorem afterPhase_samples (ph : Phase) (s : State) :
    (afterPhase ph s).samples = (replyTo (ph.frame s) s).samples := by simp [afterPhase]

/-- No transaction looks at `SEQ`. -/
theorem afterPhase_withSeq (ph : Phase) (s : State) (q : Seq) :
    afterPhase ph { s with seq := q } = { afterPhase ph s with seq := q } := by
  have hframe : ph.frame { s with seq := q } = ph.frame s := by cases ph <;> rfl
  have hreply : replyTo (ph.frame s) { s with seq := q } = replyTo (ph.frame s) s := rfl
  have hissue : issue (ph.frame s) { s with seq := q } = { issue (ph.frame s) s with seq := q } := by
    simp only [issue, consumeTurn_eq]; rfl
  have hcapture : ∀ rx (u : State), ph.capture rx { u with seq := q } = { ph.capture rx u with seq := q } := by
    intro rx u; unfold Phase.capture; split <;> rfl
  rw [afterPhase, hframe, hreply, hissue, hcapture, afterPhase]

theorem afterPhases_withSeq (phs : List Phase) (s : State) (q : Seq) :
    afterPhases phs { s with seq := q } = { afterPhases phs s with seq := q } := by
  induction phs generalizing s with
  | nil => rfl
  | cons ph rest ih => rw [afterPhases, afterPhase_withSeq, ih, afterPhases]

theorem afterPhases_append (phs qhs : List Phase) (s : State) :
    afterPhases (phs ++ qhs) s = afterPhases qhs (afterPhases phs s) := by
  induction phs generalizing s with
  | nil => rfl
  | cons ph rest ih => exact ih _

@[simp] theorem afterPhases_params (phs : List Phase) (s : State) : (afterPhases phs s).params = s.params := by
  induction phs generalizing s with
  | nil => rfl
  | cons ph rest ih => rw [afterPhases, ih, afterPhase_params]

theorem turnAt_afterPhase (ph : Phase) (k : Nat) (s : State) : turnAt k (afterPhase ph s) = turnAt (k + 1) s :=
  turnAt_congr k (by simp) (by simp) (by simp)

/-- Behind `n` transactions the `k`-th coming choice is the one that was `n + k` away. -/
theorem turnAt_afterPhases (phs : List Phase) (k : Nat) (s : State) :
    turnAt k (afterPhases phs s) = turnAt (phs.length + k) s := by
  induction phs generalizing s with
  | nil => rw [afterPhases, List.length_nil, Nat.zero_add]
  | cons ph rest ih => rw [afterPhases, ih, turnAt_afterPhase, List.length_cons, Nat.add_right_comm]

theorem linkOk_afterPhase (n : Nat) (ph : Phase) (s : State) :
    linkOk n (afterPhase ph s) ↔ linkOk n (consumeTurn s) := linkOk_congr n (by simp) (by simp) (by simp)

/-- Transactions answered with `Ok` leave one entry each, none of them an error. -/
theorem afterPhases_trace {phs : List Phase} {s : State} (h : linkOk phs.length s) :
    ∃ new, (afterPhases phs s).trace = s.trace ++ new ∧ new.length = phs.length ∧ ∀ x ∈ new, x.error = none := by
  induction phs generalizing s with
  | nil => exact ⟨[], by simp [afterPhases]⟩
  | cons ph rest ih =>
    obtain ⟨h0, h⟩ := (linkOk_succ _ _).1 h
    obtain ⟨new, htrace, hlen, hok⟩ := ih ((linkOk_afterPhase _ ph s).2 h)
    refine ⟨entryOf (ph.frame s) (replyTo (ph.frame s) s) :: new, ?_, by simp [hlen], ?_⟩
    · rw [afterPhases, htrace, afterPhase_trace, List.append_assoc]; rfl
    · simpa [entryOf, h0] using hok

/-! ### A run all of whose transactions are answered with `Ok` -/

theorem complete_withSeq (fin : Finish) (s : State) (q : Seq) : complete fin { s with seq := q } = complete fin s := by
  cases fin <;> rfl

/-- Before the last transaction of an expansion there are more to come. -/
theorem rest_ne_nil {rest : List Phase} {k n : Nat} (hlen : k + (rest.length + 1) = n) (hk : k + 1 < n) :
    rest ≠ [] :=
  List.ne_nil_of_length_pos (by omega)

/-- An operation with bus traffic has a transaction. -/
theorem phases_ne_nil {p : Config.Params} {i : Instr} {pl : Plan} (hpl : planOf p i = .ok pl)
    (hp : isPure i = false) : pl.phases ≠ [] :=
  List.ne_nil_of_length_pos (plan_length hpl hp).1

/-- A run all of whose transactions are answered with `Ok` completes its operation. -/
theorem runPhases_allOk {i : Instr} {pl : Plan} (phs : List Phase) {k : Nat} {s : State}
    (hlen : k + phs.length = pl.phases.length) (hne : phs ≠ []) (hok : linkOk phs.length s) :
    runPhases i pl k phs s = complete pl.finish (afterPhases phs s) := by
  induction phs generalizing k s with
  | nil => exact absurd rfl hne
  | cons ph rest ih =>
    obtain ⟨h0, hrest⟩ := (linkOk_succ _ _).1 hok
    rw [List.length_cons] at hlen
    by_cases hk : k + 1 < pl.phases.length
    · have hne' := rest_ne_nil hlen hk
      rw [runPhases_ok i pl k ph rest s h0 hk,
        ih (by omega) hne' ((linkOk_congr _ (by simp) (by simp) (by simp)).2 hrest)]
      change complete pl.finish (afterPhases rest { afterPhase ph s with seq := .busy i (k + 1) }) = _
      rw [afterPhases_withSeq, complete_withSeq, afterPhases]
    · have hnil : rest = [] := List.eq_nil_of_length_eq_zero (by omega)
      rw [runPhases_last i pl k ph rest s h0 hk, hnil]; rfl

/-- A run that ends with `STATUS = Ok` had every transaction answered with `Ok`. -/
theorem linkOk_of_runPhases_status {i : Instr} {pl : Plan} (phs : List Phase) {k : Nat} {s : State}
    (hlen : k + phs.length = pl.phases.length) (h : (runPhases i pl k phs s).status = .ok) :
    linkOk phs.length s := by
  induction phs generalizing k s with
  | nil => exact fun _ hk => absurd hk (Nat.not_lt_zero _)
  | cons ph rest ih =>
    rw [List.length_cons] at hlen
    rw [List.length_cons, linkOk_succ]
    rcases advance_cases i pl k ph s with ⟨e, he, _⟩ | ⟨h0, hk, _⟩ | ⟨h0, hk, _⟩
    · rw [runPhases_fault i pl k ph rest s e he] at h; cases h
    · rw [runPhases_ok i pl k ph rest s h0 hk] at h
      exact ⟨h0, (linkOk_congr _ (by simp) (by simp) (by simp)).1 (ih (by omega) h)⟩
    · have hnil : rest = [] := List.eq_nil_of_length_eq_zero (by omega)
      exact ⟨h0, by rw [hnil]; exact fun _ hk => absurd hk (Nat.not_lt_zero _)⟩

/-- An operation with bus traffic all of whose transactions are answered with `Ok` completes. -/
theorem exec_allOk {i : Instr} {s : State} {pl : Plan} (hs : s.seq = .idle) (hpure : isPure i = false)
    (hpl : planOf s.params i = .ok pl) (hok : linkOk pl.phases.length s) :
    exec i s = .next (complete pl.finish (afterPhases pl.phases s)) := by
  have hne := phases_ne_nil hpl hpure
  rw [exec_of_bus i s hpure, perform_ok hs hpl,
    runPhases_allOk pl.phases (Nat.zero_add _) hne ((linkOk_invoke _ i s).2 hok), invoke, afterPhases_withSeq,
    complete_withSeq]

/-- An operation with bus traffic that ends with `STATUS = Ok` had every transaction answered with `Ok`. -/
theorem linkOk_of_exec_status {i : Instr} {s t : State} {pl : Plan} (h : exec i s = .next t)
    (hpure : isPure i = false) (hpl : planOf s.params i = .ok pl) (hstatus : t.status = .ok) :
    linkOk pl.phases.length s := by
  rw [exec_of_bus i s hpure, hpl] at h
  obtain ⟨_, _, ⟨⟩, rfl⟩ := perform_next h
  exact (linkOk_invoke _ i s).1 (linkOk_of_runPhases_status pl.phases (Nat.zero_add _) hstatus)

/-! ### The pure function units -/

theorem needsExposure_of_pure {i : Instr} (hp : isPure i = true) : i.needsExposure = true := by
  unfold isPure at hp
  split at hp
  case h_10 => cases hp
  all_goals rfl

/-- A pure function unit that HOST may invoke is exposed and has a value (R71, R77, R78, D24). -/
theorem pureValue_of_invocable {p : Config.Params} {i : Instr} (h : i.invocable p = true) (hp : isPure i = true) :
    p.exposePrimitives = true ∧ ∃ v, pureValue p i = .ok v := by
  obtain ⟨hwf, he⟩ : i.wellFormed p = true ∧ p.exposePrimitives = true := by
    simpa [Instr.invocable, needsExposure_of_pure hp] using h
  refine ⟨he, ?_⟩
  cases i
  case encode f cur c => exact ⟨_, congrArg (Except.map _) (checkedCode_ok hwf)⟩
  case enumEncode x =>
    obtain ⟨c, hc⟩ := Option.isSome_iff_exists.1 hwf
    exact ⟨_, congrArg (Except.map _) (checkedVariant_ok hc)⟩
  case enumDecode f c =>
    obtain ⟨hf, hc⟩ := Bool.and_eq_true_iff.1 hwf
    simp only [pureValue, enumDecodeValue, checkedCode_ok hc]
    cases f
    case reserved0 => cases hf
    all_goals exact ⟨_, rfl⟩
  case extract | decode0 | decode1 | decode2 | decode3 | sdec => exact ⟨_, rfl⟩
  all_goals cases hp

end Sys2Proof.Machine
end

section
/-! The obligations about completed operations: any operation, the setters, and `BEGIN` under the responder. -/

namespace Sys2Proof.Proofs

open Sys2Proof.Machine Sys2Proof.Safety Sys2Proof.Claims

/-- Settles O41: a pure function unit presents its value; any other operation runs its whole expansion. -/
theorem everyTransactionOkCompletesTheOperation : Obligations.EveryTransactionOkCompletesTheOperation := by
  intro i s hinv hs hok
  cases hp : isPure i with
  | true =>
    obtain ⟨he, v, hv⟩ := pureValue_of_invocable hinv hp
    have hzero := (opLength_eq_zero_iff s.params i).2 hp
    refine ⟨{ s with response := some (.ok v) }, [], v, ?_, by simp, by simp [hzero], by simp, hs, rfl, by simp [hzero]⟩
    rw [exec_of_pure i s hp, present_ok hs he hv]
  | false =>
    obtain ⟨pl, hpl⟩ := plan_of_invocable hinv hp
    have hlen := plan_length_eq hpl
    have hpos := (plan_length hpl hp).1
    rw [← hlen] at hok ⊢
    obtain ⟨new, htrace, hnew, herr⟩ := afterPhases_trace hok
    obtain ⟨v, hv⟩ := complete_response pl.finish (afterPhases pl.phases s)
    refine ⟨_, new, v, exec_allOk hs hp hpl hok, ?_, hnew, herr, complete_seq .., hv, ?_⟩
    · rw [complete_trace, htrace]
    · rw [complete_status, if_neg (by omega)]

/-! ### The setters (O30) -/

/-- The state behind the read of a setter, answered with `Ok` (R91). -/
theorem afterPhase_readModify (f : Field) (c : Byte) {s : State} (hok : (currentTurn s).fault = none) :
    afterPhase (.readModify f c) s =
      let found := foundCfg 0 s s.cfg
      let d := linkReads 0 s found (fieldReg f)
      { consumeTurn s with
        tmp := encodeField f d c, cfg := found, trace := s.trace ++ [readEntry (fieldReg f) d] } := by
  simp only [afterPhase, Phase.frame, issue_ok rfl hok, replyTo_ok rfl hok, okReply_rreg, afterOk, consumeTurn_eq]
  rfl

/-- The state behind the write of a setter, answered with `Ok` (R91). -/
theorem afterPhase_writeBack (a : RegAddr) {s : State} (hok : (currentTurn s).fault = none) :
    afterPhase (.writeBack a) s =
      { consumeTurn s with
        cfg := linkWrites 0 s (foundCfg 0 s s.cfg) a s.tmp, trace := s.trace ++ [writeEntry a s.tmp] } := by
  simp only [afterPhase, Phase.frame, issue_ok rfl hok, replyTo_ok rfl hok, okReply_wreg, afterOk, consumeTurn_eq]
  rfl

/-- Settles O30: the two transactions of the read-modify-write, one after the other. -/
theorem settersReadThenWriteBack : Obligations.SettersReadThenWriteBack := by
  intro s i f c hi hs hok
  have hpl := planOf_setter hi
  have hpure := isPure_eq_false (p := s.params) (i := i) (by rw [opLength_setter hi]; decide)
  obtain ⟨h0, hok1⟩ := (linkOk_succ 1 s).1 hok
  have h1 := ((linkOk_succ 0 _).1 ((linkOk_afterPhase 1 (.readModify f c) s).2 hok1)).1
  have hturn : turnAt 0 (afterPhase (.readModify f c) s) = turnAt 1 s := turnAt_afterPhase (.readModify f c) 0 s
  refine ⟨_, _, ?_, fun _ => ⟨rfl, rfl⟩⟩
  rw [exec_allOk hs hpure hpl hok]
  simp only [readModifyWrite, afterPhases]
  rw [afterPhase_writeBack _ h1]
  simp only [linkWrites, foundCfg, hturn]
  rw [afterPhase_readModify f c h0]
  simp only [complete, finishEffect, finishValue, setStatusOk, spent, consumeTurn_eq, hs, foundCfg,
    List.append_assoc]
  rfl

/-! ### `BEGIN` under the responder (O34) -/

/-- Where EXTERNAL is quiet a transaction finds `CFG` as the one before left it. -/
theorem foundCfg_of_quiet {k : Nat} {s : State} (h : quietAt k s) (cfg : Regs) : foundCfg k s cfg = cfg := by
  rcases h with h | h <;> simp [foundCfg, afterExternal, h, externalWrites]

/-- Whole-byte writes, with the responder and no step of EXTERNAL, leave what EXTERNAL's writes of the same bytes
would. -/
theorem afterPhases_writes_cfg (ws : List (RegAddr × Byte)) {s : State} (hl : s.params.link = .responder)
    (hok : linkOk ws.length s) (hq : ∀ k < ws.length, quietAt k s) :
    (afterPhases (ws.map fun w => .command (.wreg w.1 w.2)) s).cfg = externalWrites s.cfg ws := by
  induction ws generalizing s with
  | nil => rfl
  | cons w ws ih =>
    obtain ⟨h0, hrest⟩ := (linkOk_succ _ _).1 hok
    have hquiet : afterExternal s.params (currentTurn s) s.cfg = s.cfg :=
      foundCfg_of_quiet (hq 0 (Nat.succ_pos _)) s.cfg
    have hw : (afterPhase (.command (.wreg w.1 w.2)) s).cfg = writeReg s.cfg w.1 w.2 := by
      simp [Phase.frame, replyTo_ok rfl h0, okReply_wreg, hl, hquiet]
    rw [List.map_cons, afterPhases, ih (by simpa using hl) ((linkOk_afterPhase ..).2 hrest), hw]
    · rfl
    · intro k hk
      rw [quietAt, afterPhase_params, turnAt_afterPhase]
      exact hq (k + 1) (Nat.succ_lt_succ hk)

/-- The default bytes with their addresses, in the order `BEGIN` writes them (R108). -/
def defaultWriteList : List (RegAddr × Byte) :=
  [(0, readReg Config.defaultBytes 0), (1, readReg Config.defaultBytes 1), (2, readReg Config.defaultBytes 2),
   (3, readReg Config.defaultBytes 3)]

theorem defaultWrites_eq : defaultWrites = defaultWriteList.map fun w => .command (.wreg w.1 w.2) := rfl

theorem resetPhases_length (pm : Config.Placement) :
    0 < (resetPhases pm).length ∧ (resetPhases pm).length ≤ 2 := by
  cases pm <;> decide

/-- Settles O34: `STATUS = Ok` means that every transaction was answered with `Ok`, and the four writes behind the reset
set every register. -/
theorem beginLeavesTheDefaultBytes : Obligations.BeginLeavesTheDefaultBytes := by
  intro s t hl hs h hstatus hq _
  have hpl : planOf s.params .beginInit = .ok ⟨resetPhases s.params.placement ++ defaultWrites, .begun⟩ := rfl
  have hok := linkOk_of_exec_status h rfl hpl hstatus
  rw [exec_allOk hs rfl hpl hok] at h
  cases h
  obtain ⟨hpos, hle⟩ := resetPhases_length s.params.placement
  refine ⟨?_, by simp⟩
  rw [complete_cfg, afterPhases_append, defaultWrites_eq, afterPhases_writes_cfg]
  · rfl
  · simpa using hl
  · intro k hk
    rw [turnAt_afterPhases]
    exact hok _ (by rw [List.length_append]; exact Nat.add_lt_add_left hk _)
  · intro k hk
    rw [quietAt, afterPhases_params, turnAt_afterPhases]
    exact hq _ (by omega) (by simp only [defaultWriteList, List.length_cons, List.length_nil] at hk; omega)

end Sys2Proof.Proofs
end

section
/-! The registers an operation reads are those it has written: two runs from states that differ only in what is unread
stay in step. -/

namespace Sys2Proof.Machine

open Sys2Proof.Safety Sys2Proof.Claims

/-! ### Which datapath registers an expansion reads and writes (R18) -/

/-- A datapath register an operation may read; `DUMP` register by register. -/
inductive DataCell where
  | tmp
  | rxbuf
  | rbyte
  | dump (a : RegAddr)

/-- The two states hold the same in the register. -/
def DataCell.same (s s' : State) : DataCell → Prop
  | .tmp => s'.tmp = s.tmp
  | .rxbuf => s'.rxbuf = s.rxbuf
  | .rbyte => s'.rbyte = s.rbyte
  | .dump a => readReg s'.dump a = readReg s.dump a

theorem DataCell.same.symm {c : DataCell} {s t : State} (h : c.same s t) : c.same t s := by
  cases c <;> exact Eq.symm h

theorem DataCell.same.trans {c : DataCell} {s t u : State} (h : c.same s t) (h' : c.same t u) : c.same s u := by
  cases c <;> exact Eq.trans h' h

/-- What a transaction reads of the datapath. -/
def Phase.reads : Phase → List DataCell
  | .writeBack _ => [.tmp]
  | .command _ | .readModify _ _ | .readByte _ | .readSample | .readDump _ => []

/-- What a transaction answered with `Ok` writes of the datapath. -/
def Phase.writes : Phase → List DataCell
  | .readModify _ _ => [.tmp]
  | .readByte _ => [.rbyte]
  | .readSample => [.rxbuf]
  | .readDump a => [.dump a]
  | .command _ | .writeBack _ => []

/-- What the value an operation returns is computed from. -/
def Finish.reads : Finish → List DataCell
  | .rbyte => [.rbyte]
  | .sample | .result => [.rxbuf]
  | .dump => [.dump 0, .dump 1, .dump 2, .dump 3]
  | .nothing | .begun => []

/-- With the registers `W` written before, the transactions and the end read written registers only. -/
def readsOnlyWritten (fin : Finish) : List DataCell → List Phase → Prop
  | W, [] => fin.reads ⊆ W
  | W, ph :: rest => ph.reads ⊆ W ∧ readsOnlyWritten fin (ph.writes ++ W) rest

/-- Every expansion reads only what it has written itself. -/
theorem plan_readsOnlyWritten {p : Config.Params} {i : Instr} {pl : Plan} (h : planOf p i = .ok pl) :
    readsOnlyWritten pl.finish [] pl.phases := by
  cases planShape_of_planOf h
  case beginInit => cases p.placement <;> simp [resetPhases, defaultWrites, readsOnlyWritten, Phase.reads, Finish.reads]
  all_goals
    simp [readsOnlyWritten, readModifyWrite, singleShotPhases, Phase.reads, Phase.writes, Finish.reads]

/-! ### Two states in step -/

/-- The two states agree in the registers `W` and in everything outside the datapath that an operation reads. -/
structure Agree (W : List DataCell) (s s' : State) : Prop where
  params : s'.params = s.params
  cfg : s'.cfg = s.cfg
  samples : s'.samples = s.samples
  script : s'.script = s.script
  draws : s'.draws = s.draws
  cells : ∀ c ∈ W, c.same s s'

/-- The two states are the same to HOST, to the LINK and to the environment. -/
structure SameOutcome (t t' : State) : Prop where
  seq : t'.seq = t.seq
  response : t'.response = t.response
  cfg : t'.cfg = t.cfg
  samples : t'.samples = t.samples
  script : t'.script = t.script
  draws : t'.draws = t.draws

variable {W : List DataCell} {s s' : State}

theorem Agree.withSeq (h : Agree W s s') (q : Seq) : Agree W { s with seq := q } { s' with seq := q } :=
  ⟨h.params, h.cfg, h.samples, h.script, h.draws, fun c hc => by have := h.cells c hc; cases c <;> exact this⟩

theorem Agree.currentTurn_eq (h : Agree W s s') : currentTurn s' = currentTurn s :=
  currentTurn_congr h.script h.draws h.params

/-- In step, the two runs issue the same transaction. -/
theorem Agree.frame_eq (h : Agree W s s') {ph : Phase} (hr : ph.reads ⊆ W) : ph.frame s' = ph.frame s := by
  cases ph
  case writeBack a =>
    have htmp : s'.tmp = s.tmp := h.cells .tmp (hr (List.mem_singleton.2 rfl))
    simp only [Phase.frame, htmp]
  all_goals rfl

/-- In step, the LINK gives the same answer. -/
theorem Agree.replyTo_eq (h : Agree W s s') (f : Frame) : replyTo f s' = replyTo f s := by
  simp only [replyTo, h.currentTurn_eq, h.params, h.cfg, h.samples]

/-- A transaction answered with `Ok` captures what its phase takes in. -/
theorem Phase.captured_of_ok (ph : Phase) {s : State} (h : (currentTurn s).fault = none) :
    match ph with
    | .readModify _ _ | .readByte _ | .readDump _ => ∃ d, (replyTo (ph.frame s) s).rx = [d]
    | .readSample => ∃ b0 b1 b2, (replyTo (ph.frame s) s).rx = [b0, b1, b2]
    | .command _ | .writeBack _ => True := by
  have hlen := replyTo_rx_length (ph.frame s) s h
  rw [Frame_captures] at hlen
  cases ph
  case command | writeBack => trivial
  case readSample => exact List.length_eq_three.1 hlen
  all_goals exact List.length_eq_one_iff.1 hlen

/-- A register that a transaction does not write keeps its value. -/
theorem Phase.capture_keeps {ph : Phase} {c : DataCell} (hc : c ∉ ph.writes) (rx : List Byte) (s : State) :
    c.same s (ph.capture rx s) := by
  unfold Phase.capture
  split
  case h_4 a d =>
    cases c
    case dump b => exact readReg_writeReg_other _ _ _ _ fun hb => hc (List.mem_singleton.2 (congrArg _ hb))
    all_goals rfl
  all_goals cases c <;> simp_all [DataCell.same, Phase.writes]

/-- A register that a transaction answered with `Ok` writes depends on the answer alone. -/
theorem Phase.capture_writes {ph : Phase} {c : DataCell} (hc : c ∈ ph.writes) {s : State}
    (hok : (currentTurn s).fault = none) (u u' : State) :
    c.same (ph.capture (replyTo (ph.frame s) s).rx u) (ph.capture (replyTo (ph.frame s) s).rx u') := by
  have hrx := ph.captured_of_ok hok
  cases ph
  case command | writeBack => cases hc
  case readSample =>
    obtain ⟨b0, b1, b2, hrx⟩ := hrx
    rw [hrx, List.mem_singleton.1 hc]
    rfl
  case readDump a =>
    obtain ⟨d, hrx⟩ := hrx
    rw [hrx, List.mem_singleton.1 hc]
    exact (readReg_writeReg_same ..).trans (readReg_writeReg_same ..).symm
  all_goals
    obtain ⟨d, hrx⟩ := hrx
    rw [hrx, List.mem_singleton.1 hc]
    rfl

/-! ### Two runs in step -/

theorem Agree.issue_agree (h : Agree W s s') (f : Frame) : Agree W (issue f s) (issue f s') where
  params := by simp [h.params]
  cfg := by simp [h.replyTo_eq]
  samples := by simp [h.replyTo_eq]
  script := by simp [h.script]
  draws := by simp [consumeTurn_eq, h.draws, h.script]
  cells c hc := by have := h.cells c hc; cases c <;> simpa [DataCell.same] using this

/-- Behind a transaction answered with `Ok` the two states are in step, in what it has written too. -/
theorem Agree.afterPhase_agree (h : Agree W s s') {ph : Phase} (hr : ph.reads ⊆ W)
    (hok : (currentTurn s).fault = none) : Agree (ph.writes ++ W) (afterPhase ph s) (afterPhase ph s') where
  params := by simp [h.params]
  cfg := by simp [h.frame_eq hr, h.replyTo_eq]
  samples := by simp [h.frame_eq hr, h.replyTo_eq]
  script := by simp [h.script]
  draws := by simp [consumeTurn_eq, h.draws, h.script]
  cells c hc := by
    rw [afterPhase, afterPhase, h.frame_eq hr, h.replyTo_eq]
    by_cases hw : c ∈ ph.writes
    · exact Phase.capture_writes hw hok _ _
    · have hold := (h.issue_agree (ph.frame s)).cells c ((List.mem_append.1 hc).resolve_left hw)
      exact (Phase.capture_keeps hw _ _).symm.trans (hold.trans (Phase.capture_keeps hw _ _))

/-- In step, both operations complete alike. -/
theorem Agree.complete_same (h : Agree W s s') {fin : Finish} (hr : fin.reads ⊆ W) :
    SameOutcome (complete fin s) (complete fin s') where
  seq := by simp
  cfg := by simp [h.cfg]
  samples := by simp [h.samples]
  script := by simp [h.script]
  draws := by simp [h.draws]
  response := by
    have hcells : ∀ c ∈ fin.reads, c.same s s' := fun c hc => h.cells c (hr hc)
    cases fin
    case nothing | begun => rfl
    case rbyte =>
      have hrbyte : s'.rbyte = s.rbyte := hcells .rbyte (by simp [Finish.reads])
      simp [complete, finishEffect, finishValue, hrbyte]
    case sample | result =>
      have hrxbuf : s'.rxbuf = s.rxbuf := hcells .rxbuf (by simp [Finish.reads])
      simp [complete, finishEffect, finishValue, hrxbuf]
    case dump =>
      have hdump : s'.dump = s.dump := Regs_ext_read _ _ fun a => hcells (.dump a) (by
        rcases regAddr_cases a with rfl | rfl | rfl | rfl <;> simp [Finish.reads])
      simp [complete, finishEffect, finishValue, hdump]

/-- In step, both operations abort alike. -/
theorem Agree.raise_same (h : Agree W s s') (e : TransportError) :
    SameOutcome (raiseTransportFault e s) (raiseTransportFault e s') where
  seq := rfl
  response := rfl
  cfg := h.cfg
  samples := h.samples
  script := h.script
  draws := h.draws

/-- In step, and reading only what they have written, both runs issue the same transactions and end alike. -/
theorem Agree.runPhases_same {i : Instr} {pl : Plan} (phs : List Phase) {k : Nat} (h : Agree W s s')
    (hr : readsOnlyWritten pl.finish W phs) (hlen : k + phs.length = pl.phases.length) (hne : phs ≠ []) :
    let t := runPhases i pl k phs s
    let t' := runPhases i pl k phs s'
    SameOutcome t t' ∧ t'.status = t.status ∧ ∃ new, t.trace = s.trace ++ new ∧ t'.trace = s'.trace ++ new := by
  induction phs generalizing k W s s' with
  | nil => exact absurd rfl hne
  | cons ph rest ih =>
    obtain ⟨hreads, hrest⟩ := hr
    rw [List.length_cons] at hlen
    have hframe := h.frame_eq hreads
    have hentry : entryOf (ph.frame s') (replyTo (ph.frame s') s') = entryOf (ph.frame s) (replyTo (ph.frame s) s) := by
      rw [hframe, h.replyTo_eq]
    rcases advance_cases i pl k ph s with ⟨e, he, _⟩ | ⟨hok, hk, _⟩ | ⟨hok, hk, _⟩
    · have he' : (currentTurn s').fault = some e := by rw [h.currentTurn_eq, he]
      rw [runPhases_fault i pl k ph rest s e he, runPhases_fault i pl k ph rest s' e he', hframe]
      exact ⟨(h.issue_agree _).raise_same e, rfl, _, issue_trace .., by simp [h.replyTo_eq]⟩
    · have hok' : (currentTurn s').fault = none := by rw [h.currentTurn_eq, hok]
      rw [runPhases_ok i pl k ph rest s hok hk, runPhases_ok i pl k ph rest s' hok' hk]
      obtain ⟨hsame, hstatus, new, hnew, hnew'⟩ := ih (k := k + 1)
        ((h.afterPhase_agree hreads hok).withSeq (.busy i (k + 1))) hrest (by omega) (rest_ne_nil hlen hk)
      refine ⟨hsame, hstatus, entryOf (ph.frame s) (replyTo (ph.frame s) s) :: new, hnew.trans ?_, hnew'.trans ?_⟩
      · simp
      · simp [hentry]
    · have hok' : (currentTurn s').fault = none := by rw [h.currentTurn_eq, hok]
      have hnil : rest = [] := List.eq_nil_of_length_eq_zero (by omega)
      subst hnil
      rw [runPhases_last i pl k ph [] s hok hk, runPhases_last i pl k ph [] s' hok' hk]
      exact ⟨(h.afterPhase_agree hreads hok).complete_same hrest, by simp,
        [entryOf (ph.frame s) (replyTo (ph.frame s) s)], by simp, by simp [hentry]⟩

/-- An operation from a state that differs in what is unread answers alike and issues the same transactions; `STATUS` is
the same too unless the operation is a pure function unit, which leaves it. -/
theorem exec_withUnread {i : Instr} {s t : State} (u : State) (h : exec i s = .next t) :
    ∃ t' new, exec i (withUnread s u) = .next t' ∧ t.trace = s.trace ++ new ∧ t'.trace = u.trace ++ new ∧
      SameOutcome t t' ∧ (t'.status = t.status ∨ t.status = s.status ∧ t'.status = u.status) := by
  obtain ⟨hs, ⟨hp, he, v, hv, rfl⟩ | ⟨hp, pl, hpl, rfl⟩⟩ := exec_next_cases h
  · refine ⟨{ withUnread s u with response := some (.ok v) }, [], ?_, by simp, by simp [withUnread],
      ⟨rfl, rfl, rfl, rfl, rfl, rfl⟩, .inr ⟨rfl, rfl⟩⟩
    rw [exec_of_pure i _ hp]
    exact present_ok hs he hv
  · have hagree : Agree [] (invoke i s) (invoke i (withUnread s u)) :=
      ⟨rfl, rfl, rfl, rfl, rfl, fun c hc => absurd hc List.not_mem_nil⟩
    have hne := phases_ne_nil hpl hp
    obtain ⟨hsame, hstatus, new, hnew, hnew'⟩ :=
      hagree.runPhases_same (i := i) pl.phases (plan_readsOnlyWritten hpl) (Nat.zero_add _) hne
    refine ⟨_, new, ?_, hnew, hnew', hsame, .inl hstatus⟩
    rw [exec_of_bus i _ hp]
    exact perform_ok hs hpl

end Sys2Proof.Machine
end

section
/-! The obligations about what is unread, and `LIFE`. -/

namespace Sys2Proof.Machine

open Sys2Proof.Safety Sys2Proof.Claims

/-! ### Who writes `LIFE` (R22) -/

/-- A transaction writes `LIFE` only where it completes `BEGIN`. -/
theorem advance_life (i : Instr) (pl : Plan) (k : Nat) (ph : Phase) (s : State) :
    (advance i pl k ph s).life =
      if pl.finish = .begun ∧ (advance i pl k ph s).seq = .idle ∧ (advance i pl k ph s).status = .ok then .begun
      else s.life := by
  rcases advance_cases i pl k ph s with ⟨e, _, h⟩ | ⟨_, _, h⟩ | ⟨_, _, h⟩ <;> simp [h]

/-- A run writes `LIFE` only where it completes `BEGIN`. -/
theorem runPhases_life {i : Instr} {pl : Plan} (phs : List Phase) {k : Nat} {s : State}
    (hlen : k + phs.length = pl.phases.length) (hne : phs ≠ []) :
    let t := runPhases i pl k phs s
    t.life = if pl.finish = .begun ∧ t.status = .ok then .begun else s.life := by
  induction phs generalizing k s with
  | nil => exact absurd rfl hne
  | cons ph rest ih =>
    rw [List.length_cons] at hlen
    rcases advance_cases i pl k ph s with ⟨e, he, _⟩ | ⟨hok, hk, _⟩ | ⟨hok, hk, _⟩
    · rw [runPhases_fault i pl k ph rest s e he]; simp
    · rw [runPhases_ok i pl k ph rest s hok hk]
      simpa using ih (by omega) (rest_ne_nil hlen hk)
    · rw [runPhases_last i pl k ph rest s hok hk]; simp

/-- An operation writes `LIFE` only where it is a `BEGIN` that completes with `Ok`. -/
theorem exec_life {i : Instr} {s t : State} (h : exec i s = .next t) :
    t.life = if i = .beginInit ∧ t.status = .ok then .begun else s.life := by
  obtain ⟨_, ⟨hp, _, v, _, rfl⟩ | ⟨hp, pl, hpl, rfl⟩⟩ := exec_next_cases h
  · rw [if_neg]
    rintro ⟨rfl, _⟩
    cases hp
  · have hne := phases_ne_nil hpl hp
    simpa [plan_finish_begun hpl] using runPhases_life (i := i) (s := invoke i s) pl.phases (Nat.zero_add _) hne

/-- Command bytes decode to operations that have command bytes. -/
theorem encode_isSome_of_decode {bytes rest : List Byte} {i : Instr} (h : decode bytes = .ok (i, rest)) :
    (encode i).isSome = true := by
  unfold decode at h
  repeat' split at h
  all_goals cases h <;> rfl

/-- `BEGIN` has no command byte: it is presented by name (R70). -/
theorem eq_named_of_fetch_beginInit {c : Command} (h : fetchCommand c = .ok .beginInit) : c = .named .beginInit := by
  cases c with
  | named i => cases h; rfl
  | wire bytes =>
    simp only [fetchCommand] at h
    split at h
    next i rest hd => cases h; cases encode_isSome_of_decode hd
    next => cases h

end Sys2Proof.Machine

namespace Sys2Proof.Proofs

open Sys2Proof.Machine Sys2Proof.Safety Sys2Proof.Claims

/-- Settles O52: the two runs are in step, and the new transactions are the same on every trace. -/
theorem unreadStateDoesNotMatter : Obligations.UnreadStateDoesNotMatter := by
  intro i s u t h
  obtain ⟨t', new, hexec, hnew, hnew', hsame, _⟩ := exec_withUnread u h
  exact ⟨t', new, new, hexec, hnew, hnew', rfl, hsame.script, hsame.draws, hsame.seq,
    fun _ _ => ⟨rfl, hsame.response, hsame.cfg, hsame.samples⟩⟩

/-- No operation reads `LIFE`: the second clause of O51. -/
theorem exec_withLife {i : Instr} {s t : State} (h : exec i s = .next t) (l : Life) :
    ∃ t', exec i { s with life := l } = .next t' ∧ t'.trace = t.trace ∧ t'.response = t.response ∧
      t'.status = t.status ∧ t'.cfg = t.cfg ∧ t'.samples = t.samples := by
  obtain ⟨t', new, hexec, hnew, hnew', hsame, hstatus⟩ := exec_withUnread { s with life := l } h
  refine ⟨t', hexec, hnew'.trans hnew.symm, hsame.response, ?_, hsame.cfg, hsame.samples⟩
  rcases hstatus with h | ⟨h, h'⟩
  · exact h
  · rw [h', h]

/-- A step that writes `LIFE` completes a `BEGIN` with `Ok`: the third clause of O51. -/
theorem begin_completes_of_life_ne {s t : State} (h : step s = .next t) (hne : t.life ≠ s.life) :
    t.life = .begun ∧ t.status = .ok ∧ t.seq = .idle ∧
      ((∃ k, s.seq = .busy .beginInit k) ∨ (s.seq = .idle ∧ ∃ cs, s.cmd = .named .beginInit :: cs)) := by
  rcases step_next_cases h with ⟨i, k, pl, ph, hs, hpl, _, rfl⟩ | ⟨_, _, rfl⟩ | ⟨hs, c, cs, i, hcmd, hfetch, hex⟩
  · have hlife := advance_life i pl k ph s
    split at hlife
    next hbegun =>
      obtain ⟨hfin, hseq, hstatus⟩ := hbegun
      obtain rfl := (plan_finish_begun hpl).1 hfin
      exact ⟨hlife, hstatus, hseq, .inl ⟨k, hs⟩⟩
    next => exact absurd hlife hne
  · exact absurd rfl hne
  · have hlife := exec_life hex
    split at hlife
    next hbegun =>
      obtain ⟨rfl, hstatus⟩ := hbegun
      obtain rfl := eq_named_of_fetch_beginInit hfetch
      exact ⟨hlife, hstatus, exec_seq hex, .inr ⟨hs, cs, hcmd⟩⟩
    next => exact absurd hlife hne

/-- A resumed `BEGIN` that ends sets `LIFE` exactly where it ends with `Ok`: the fourth clause of O51. -/
theorem resumed_begin_life {s t : State} {k : Nat} (hs : s.seq = .busy .beginInit k) (h : step s = .next t)
    (hidle : t.seq = .idle) : t.life = if t.status = .ok then .begun else s.life := by
  rcases step_next_cases h with ⟨i, j, pl, ph, hs', hpl, _, rfl⟩ | ⟨hs', _⟩ | ⟨hs', _⟩
  · cases hs.symm.trans hs'
    simpa [(plan_finish_begun hpl).2 rfl, hidle] using advance_life .beginInit pl k ph s
  · cases hs.symm.trans hs'
  · cases hs.symm.trans hs'

/-- Settles O51, from the four clauses. -/
theorem lifeChangesOnlyWhenBeginCompletes : Obligations.LifeChangesOnlyWhenBeginCompletes :=
  ⟨rfl, fun _ _ _ h => ⟨exec_life h, exec_withLife h⟩, fun _ _ => begin_completes_of_life_ne,
    fun _ _ _ => resumed_begin_life⟩

end Sys2Proof.Proofs
end

section
/-! The normal form and the responder's reading of a transaction (R36, R51 to R56), and the obligations about them. -/

namespace Sys2Proof

open Sys2Proof.Machine Sys2Proof.Claims

/-! ### The formats and the primitives -/

/-- The transaction of a primitive is that of a frame which is the primitive (R57). -/
theorem frame_of_encodeTransaction {i : Instr} {ys : List SubOp} (h : encodeTransaction i = some ys) :
    ∃ f : Frame, ys = f.subOps ∧ f.instr = .ok i := by
  cases i
  case wreg a v => cases h; exact ⟨.wreg a v, rfl, rfl⟩
  case rreg a => cases h; exact ⟨.rreg a, rfl, rfl⟩
  case reset => cases h; exact ⟨.reset false, rfl, rfl⟩
  case start => cases h; exact ⟨.start, rfl, rfl⟩
  case sread => cases h; exact ⟨.sread, rfl, rfl⟩
  all_goals cases h

/-- The ENGINE issues every transaction in normal form (R36). -/
@[simp] theorem normalForm_subOps (f : Frame) : normalForm f.subOps = f.subOps := by
  cases f
  case reset trailing => cases trailing <;> rfl
  all_goals rfl

/-! ### The waits of a normal form -/

theorem waitTotal_cons (x : SubOp) (xs : List SubOp) : waitTotal (x :: xs) = waitTotal [x] + waitTotal xs := by
  simp [waitTotal]

theorem waitTotal_mergeFront (x : SubOp) (zs : List SubOp) : waitTotal (mergeFront x zs) = waitTotal (x :: zs) := by
  unfold mergeFront
  split
  · simp [waitTotal, Nat.add_assoc]
  · simp [waitTotal]
  · rfl

/-- The normal form waits as long. -/
theorem waitTotal_normalForm (xs : List SubOp) : waitTotal (normalForm xs) = waitTotal xs := by
  induction xs with
  | nil => rfl
  | cons x xs ih => rw [normalForm, waitTotal_mergeFront, waitTotal_cons, ih, ← waitTotal_cons]

theorem mergeFront_ne_nil (x : SubOp) (zs : List SubOp) : mergeFront x zs ≠ [] := by
  unfold mergeFront
  split <;> simp

theorem normalForm_eq_nil_iff {xs : List SubOp} : normalForm xs = [] ↔ xs = [] := by
  cases xs with
  | nil => simp [normalForm]
  | cons x xs => simp [normalForm, mergeFront_ne_nil]

theorem withoutWaits_eq_nil_iff {xs : List SubOp} : withoutWaits xs = [] ↔ ∀ x ∈ xs, x.isWait = true := by
  simp [withoutWaits, List.filter_eq_nil_iff]

/-! ### What the responder reads (R50 to R56) -/

/-- A transaction that is a frame's, waits and grouping apart, is read as that frame. -/
theorem ofWire_of_seen {f : Frame} {xs : List SubOp} (hne : xs ≠ [])
    (h : normalForm (withoutWaits xs) = withoutWaits f.subOps) : Frame.ofWire xs = some f.seen := by
  have seen : normalForm (xs.filter fun x => !x.isWait) = withoutWaits f.subOps := h
  unfold Frame.ofWire
  rw [seen]
  cases f
  case wreg a v => simp [withoutWaits, Frame.subOps, SubOp.isWait, wregByte_matches a, Frame.seen]
  case rreg a => simp [withoutWaits, Frame.subOps, SubOp.isWait, rregByte_matches a, Frame.seen]
  case reset trailing => cases trailing <;> rfl
  case start => rfl
  case sread => rfl
  case postResetWait => simp [withoutWaits, Frame.subOps, SubOp.isWait, hne, Frame.seen]

/-- What is read as a frame is that frame's transaction, waits and grouping apart. -/
theorem seen_of_ofWire {f : Frame} {xs : List SubOp} (h : Frame.ofWire xs = some f) :
    normalForm (withoutWaits xs) = withoutWaits f.subOps := by
  unfold Frame.ofWire at h
  split at h
  next seen =>
    split at h <;> cases h
    exact seen
  next n seen =>
    split at h <;> cases h
    next hn => rw [withoutWaits, seen, hn]; rfl
  next b seen =>
    split at h
    next hb => cases h; rw [withoutWaits, seen, hb]; rfl
    next =>
      split at h <;> cases h
      next hb => rw [withoutWaits, seen, hb]; rfl
  next b v seen =>
    split at h <;> cases h
    next hb =>
      rw [withoutWaits, seen]
      conv_lhs => rw [wregByte_of_matches b hb]
      rfl
  next b tx seen =>
    split at h <;> cases h
    next hb =>
      obtain ⟨hb, htx⟩ := Bool.and_eq_true_iff.1 hb
      rw [withoutWaits, seen, eq_of_beq htx]
      conv_lhs => rw [rregByte_of_matches b hb]
      rfl
  next => cases h

variable {p : Config.Params} {t : Turn} {cfg : Regs} {samples : List Sample} {xs : List SubOp}

/-- The responder answers a frame's transaction, waits and grouping apart, as it answers the frame. -/
theorem respond_of_seen (f : Frame) (hne : xs ≠ []) (h : normalForm (withoutWaits xs) = withoutWaits f.subOps) :
    respond p t xs cfg samples = some (responderReply p t f cfg samples) := by
  rw [respond, ofWire_of_seen hne h]
  cases f <;> rfl

/-- Whatever the responder answers is a frame's transaction, waits and grouping apart. -/
theorem seen_of_respond (h : respond p t xs cfg samples ≠ none) :
    ∃ f : Frame, normalForm (withoutWaits xs) = withoutWaits f.subOps := by
  cases hf : Frame.ofWire xs with
  | none => exact absurd (by rw [respond, hf]; rfl) h
  | some f => exact ⟨f, seen_of_ofWire hf⟩

end Sys2Proof

namespace Sys2Proof.Proofs

open Sys2Proof.Machine Sys2Proof.Safety Sys2Proof.Claims

/-- Settles O5: the transaction of a primitive is a frame's, and a frame is recognised in every grouping. -/
theorem everyGroupingOfAPrimitiveDecodesBack : Obligations.EveryGroupingOfAPrimitiveDecodesBack := by
  intro i ys xs hi hxs
  obtain ⟨f, rfl, hf⟩ := frame_of_encodeTransaction hi
  simp only [decodeTransaction, decode_frame hxs, hf]

/-- Settles O7: the transaction of a frame is in normal form, and decoding it gives the frame back. -/
theorem formatsAreNormalAndDistinct : Obligations.FormatsAreNormalAndDistinct := by
  refine ⟨normalForm_subOps, fun f g h => ?_⟩
  have hf : Frame.decode f.subOps = .ok f := decode_frame (normalForm_subOps f)
  have hg : Frame.decode g.subOps = .ok g := decode_frame (normalForm_subOps g)
  exact Except.ok.inj (hf.symm.trans ((congrArg Frame.decode h).trans hg))

/-- Settles O8: merging two neighbours commutes with putting them in front of a normal form, and what putting one
sub-operation in front keeps, the normal form keeps. -/
theorem normalFormMergesAdjacent : Obligations.NormalFormMergesAdjacent := by
  intro xs ys
  refine ⟨fun b c => ?_, fun d e => ?_, xactTransmits_normalForm xs, xactCaptures_normalForm xs,
    waitTotal_normalForm xs, normalForm_normalForm xs⟩
  · simp only [normalForm_append, normalForm, mergeFront_write_write]
  · simp only [normalForm_append, normalForm, mergeFront_wait_wait]

/-- Settles O10: each shape is a frame's transaction without its waits, and the responder answers no other shape. -/
theorem responderAnswers : Obligations.ResponderAnswers := by
  intro p t cfg samples xs seen
  have answer : ∀ f : Frame, withoutWaits f.subOps ≠ [] → seen = withoutWaits f.subOps →
      respond p t xs cfg samples = some (responderReply p t f cfg samples) := by
    intro f hf hseen
    refine respond_of_seen f ?_ hseen
    rintro rfl
    exact hf hseen.symm
  refine ⟨fun a v => answer (.wreg a v) (List.cons_ne_nil _ _), fun a => answer (.rreg a) (List.cons_ne_nil _ _),
    answer (.reset false) (List.cons_ne_nil _ _), answer .start (List.cons_ne_nil _ _), ?_, ?_, ?_⟩
  · rintro x rest rfl hseen
    exact answer .sread (List.cons_ne_nil _ _) hseen
  · intro hne hwaits
    exact respond_of_seen .postResetWait hne (by rw [withoutWaits_eq_nil_iff.2 hwaits]; rfl)
  · intro h
    obtain ⟨f, hf⟩ := seen_of_respond h
    cases f
    case wreg a v => exact .inl ⟨a, v, hf⟩
    case rreg a => exact .inr (.inl ⟨a, hf⟩)
    case reset trailing => cases trailing <;> exact .inr (.inr (.inl hf))
    case start => exact .inr (.inr (.inr (.inl hf)))
    case sread => exact .inr (.inr (.inr (.inr (.inl hf))))
    case postResetWait =>
      have hwaits := withoutWaits_eq_nil_iff.1 (normalForm_eq_nil_iff.1 hf)
      exact .inr (.inr (.inr (.inr (.inr hwaits))))

end Sys2Proof.Proofs
end

section
/-! What transactions and operations keep of a register whatever the LINK answers, and completed primitives under the
reference responder. -/

namespace Sys2Proof.Machine

open Sys2Proof.Safety Sys2Proof.Claims

/-! ### The code of a setter -/

/-- The code of a setter fits its field (R71, R77). -/
theorem setterTarget_fits {p : Config.Params} {i : Instr} {f : Field} {c : Byte}
    (h : setterTarget p i = some (f, c)) : c.toNat < 2 ^ fieldWidth f := by
  have typed : ∀ x, (enumEncode p x).map (fun c => (variantField x, c)) = some (f, c) →
      c.toNat < 2 ^ fieldWidth f := by
    intro x hx
    obtain ⟨c', hc, heq⟩ := Option.map_eq_some_iff.1 hx
    cases heq
    exact fits_of_legal (legal_of_enumEncode hc).1
  cases i
  case setFieldRaw g d =>
    simp only [setterTarget, Option.ite_none_right_eq_some, Option.some.injEq, Prod.mk.injEq] at h
    obtain ⟨⟨_, _, hd⟩, rfl, rfl⟩ := h
    exact hd
  case setMux | setGain | setPgaBypass | setDataRate | setOperatingMode | setConversionMode | setTempSensorMode
      | setBurnoutCurrent | setVrefSelect | setFirFilter | setLowSideSwitch | setIdacCurrent | setIdac1Route
      | setIdac2Route | setDrdyMode => exact typed _ h
  all_goals cases h

/-! ### Which transactions can change a register -/

/-- The transactions that can change the register at `a`, answered with `Ok` or not: a write of it and the reset
(R51, R53, R122). -/
def frameMayChange (a : RegAddr) : Frame → Bool
  | .wreg b _ => b = a
  | .reset _ => true
  | .rreg _ | .start | .sread | .postResetWait => false

/-- A register write, answered with `Ok` or not, changes its register alone. -/
theorem replyTo_cfg_wreg (a : RegAddr) (v : Byte) (s : State) :
    ∃ w, (replyTo (.wreg a v) s).cfg = writeReg (foundCfg 0 s s.cfg) a w := by
  unfold replyTo linkReply
  split
  · exact ⟨_, rfl⟩
  · split <;> exact ⟨_, rfl⟩

/-- A transaction that neither writes nor resets, answered with `Ok` or not, leaves `CFG` as it found it. -/
theorem replyTo_cfg_of_keeping {f : Frame} (hf : ∀ a, frameMayChange a f = false) (s : State) :
    (replyTo f s).cfg = foundCfg 0 s s.cfg := by
  cases f
  case wreg a v => exact absurd (hf a) (by simp [frameMayChange])
  case reset => cases hf 0
  case sread =>
    unfold replyTo linkReply
    split
    · rfl
    · cases s.params.link <;> cases s.samples <;> rfl
  all_goals
    unfold replyTo linkReply
    split
    · rfl
    · split <;> rfl

/-- A transaction that cannot change a register leaves it as EXTERNAL's steps before it did, whatever the LINK
answers. -/
theorem readReg_replyTo_cfg {f : Frame} {a : RegAddr} (hf : frameMayChange a f = false) (s : State) :
    readReg (replyTo f s).cfg a = readReg (foundCfg 0 s s.cfg) a := by
  cases f
  case wreg b v =>
    obtain ⟨w, hw⟩ := replyTo_cfg_wreg b v s
    rw [hw, readReg_writeReg_other _ _ _ _ (Ne.symm (of_decide_eq_false hf))]
  case reset => cases hf
  all_goals rw [replyTo_cfg_of_keeping fun _ => rfl]

/-- A setter can change the register of its field and no other. -/
theorem mayChange_setter {p : Config.Params} {i : Instr} {f : Field} {c : Byte}
    (h : setterTarget p i = some (f, c)) (a : RegAddr) : mayChange a i = decide (fieldReg f = a) := by
  cases i
  case setFieldRaw g d =>
    simp only [setterTarget, Option.ite_none_right_eq_some, Option.some.injEq, Prod.mk.injEq] at h
    obtain ⟨_, rfl, _⟩ := h
    rfl
  case setMux | setGain | setPgaBypass | setDataRate | setOperatingMode | setConversionMode | setTempSensorMode
      | setBurnoutCurrent | setVrefSelect | setFirFilter | setLowSideSwitch | setIdacCurrent | setIdac1Route
      | setIdac2Route | setDrdyMode =>
    obtain ⟨c', _, heq⟩ := Option.map_eq_some_iff.1 h
    cases heq
    exact decide_eq_decide.2 eq_comm
  all_goals cases h

/-- An operation that cannot change a register issues no transaction that can. -/
theorem frameMayChange_of_plan {p : Config.Params} {i : Instr} {pl : Plan} {a : RegAddr}
    (hpl : planOf p i = .ok pl) (hi : mayChange a i = false) {ph : Phase} (hph : ph ∈ pl.phases) (s : State) :
    frameMayChange a (ph.frame s) = false := by
  have readModifyWrite : ∀ f c, fieldReg f ≠ a → ph ∈ readModifyWrite f c →
      frameMayChange a (ph.frame s) = false := by
    rintro f c hf (_ | ⟨_, _ | ⟨_, ⟨⟩⟩⟩)
    · rfl
    · exact decide_eq_false hf
  cases planShape_of_planOf hpl with
  | pureUnit => cases hph
  | wreg b v => cases List.mem_singleton.1 hph; exact hi
  | reset | beginInit => cases hi
  | setter ht => exact readModifyWrite _ _ (of_decide_eq_false ((mayChange_setter ht a).symm.trans hi)) hph
  | readChannel =>
    rcases List.mem_append.1 hph with hph | hph
    · exact readModifyWrite .mux _ (Ne.symm (of_decide_eq_false (p := a = 0) hi)) hph
    · fin_cases hph <;> rfl
  | _ => fin_cases hph <;> rfl

/-! ### A register across transactions -/

/-- The state is `n` transactions behind another. -/
structure Behind (s : State) (n : Nat) (u : State) : Prop where
  params : u.params = s.params
  trace : u.trace.length = s.trace.length + n
  turns : ∀ k, turnAt k u = turnAt (n + k) s

variable {s t u : State} {n : Nat} {a : RegAddr} {v : Byte}

theorem Behind.congr (h : Behind s n u) (hp : t.params = u.params) (ht : t.trace = u.trace)
    (hs : t.script = u.script) (hd : t.draws = u.draws) : Behind s n t :=
  ⟨hp.trans h.params, ht ▸ h.trace, fun k => (turnAt_congr k hs hd hp).trans (h.turns k)⟩

/-- One more transaction, whatever the LINK answers. -/
theorem Behind.afterTransaction (h : Behind s n u) (i : Instr) (pl : Plan) (k : Nat) (ph : Phase) :
    Behind s (n + 1) (advance i pl k ph u) where
  params := by rw [advance_params, h.params]
  trace := by rw [advance_trace, List.length_append, h.trace]; rfl
  turns j :=
    have next : turnAt j (advance i pl k ph u) = turnAt (j + 1) u :=
      turnAt_congr j (by simp) (by simp) (by simp)
    by rw [next, h.turns, Nat.add_assoc, Nat.add_comm 1]

/-- EXTERNAL is as quiet at the coming transaction as at the `n`-th from the earlier state. -/
theorem Behind.quietAt_zero (h : Behind s n u) (hq : quietAt n s) : quietAt 0 u := by
  rw [quietAt, h.params, h.turns]
  exact hq

/-- Behind at least one transaction from the earlier state, the register at `a` holds `v` unless EXTERNAL has stepped in
since the first of them. -/
def HoldsUnlessExternal (s : State) (a : RegAddr) (v : Byte) (u : State) : Prop :=
  ∃ n, 0 < n ∧ Behind s n u ∧ ((∀ k, 0 < k → k < n → quietAt k s) → readReg u.cfg a = v)

theorem HoldsUnlessExternal.congr (h : HoldsUnlessExternal s a v u) (hp : t.params = u.params)
    (ht : t.trace = u.trace) (hs : t.script = u.script) (hd : t.draws = u.draws) (hc : t.cfg = u.cfg) :
    HoldsUnlessExternal s a v t := by
  obtain ⟨n, hpos, hbehind, hcfg⟩ := h
  exact ⟨n, hpos, hbehind.congr hp ht hs hd, hc ▸ hcfg⟩

theorem HoldsUnlessExternal.afterTransaction (h : HoldsUnlessExternal s a v u) (i : Instr) (pl : Plan) (k : Nat)
    {ph : Phase} (hph : frameMayChange a (ph.frame u) = false) :
    HoldsUnlessExternal s a v (advance i pl k ph u) := by
  obtain ⟨n, hpos, hbehind, hcfg⟩ := h
  refine ⟨n + 1, n.succ_pos, hbehind.afterTransaction i pl k ph, fun hq => ?_⟩
  have hquiet := hbehind.quietAt_zero (hq n hpos n.lt_succ_self)
  rw [advance_cfg, readReg_replyTo_cfg hph, Proofs.foundCfg_of_quiet hquiet]
  exact hcfg fun j hj hjn => hq j hj (Nat.lt_succ_of_lt hjn)

/-- Operations that cannot change the register keep it, whether they complete or abort. -/
theorem HoldsUnlessExternal.afterOperation (h : HoldsUnlessExternal s a v u) {i : Instr} (hi : mayChange a i = false)
    (hex : exec i u = .next t) : HoldsUnlessExternal s a v t := by
  obtain ⟨_, ⟨_, _, x, _, rfl⟩ | ⟨_, pl, hpl, rfl⟩⟩ := exec_next_cases hex
  · exact h.congr rfl rfl rfl rfl rfl
  · exact runPhases_keeps (HoldsUnlessExternal s a v) i pl 0 pl.phases (invoke i u)
      (fun k ph w hph hw => hw.afterTransaction i pl k (frameMayChange_of_plan hpl hi hph w))
      (h.congr rfl rfl rfl rfl rfl)

theorem HoldsUnlessExternal.afterOperations {is : List Instr} (h : HoldsUnlessExternal s a v u)
    (his : ∀ i ∈ is, mayChange a i = false) (hto : leadsTo is u t) : HoldsUnlessExternal s a v t := by
  induction is generalizing u with
  | nil => cases hto; exact h
  | cons i is ih =>
    obtain ⟨w, hex, hto⟩ := hto
    exact ih (h.afterOperation (his i List.mem_cons_self) hex) (fun j hj => his j (List.mem_cons_of_mem i hj)) hto

/-! ### Completed primitives -/

/-- An operation with bus traffic that ends with `STATUS = Ok` has completed its expansion, every transaction of it
answered with `Ok`. -/
theorem exec_status_ok {i : Instr} (h : exec i s = .next t) (hbus : isPure i = false) (hok : t.status = .ok) :
    ∃ pl, planOf s.params i = .ok pl ∧ linkOk pl.phases.length s ∧
      t = complete pl.finish (afterPhases pl.phases s) := by
  obtain ⟨hs, ⟨hp, _⟩ | ⟨_, pl, hpl, _⟩⟩ := exec_next_cases h
  · rw [hbus] at hp; cases hp
  · have hlink := linkOk_of_exec_status h hbus hpl hok
    rw [exec_allOk hs hbus hpl hlink] at h
    cases h
    exact ⟨pl, hpl, hlink, rfl⟩

/-- Under the responder a register write that returns `Ok` leaves the byte in the register (R51). -/
theorem holds_of_wreg (hl : s.params.link = .responder) (h : exec (.wreg a v) s = .next t) (hok : t.status = .ok) :
    HoldsUnlessExternal s a v t := by
  obtain ⟨pl, hpl, hlink, rfl⟩ := exec_status_ok h rfl hok
  cases (exposed_ok hpl).2
  have h0 : (currentTurn s).fault = none := hlink 0 Nat.one_pos
  refine ⟨1, Nat.one_pos, ⟨by simp, by simp [afterPhases], fun k => ?_⟩, fun _ => ?_⟩
  · exact (turnAt_congr k (by simp) (by simp) (by simp)).trans (turnAt_afterPhases [.command (.wreg a v)] k s)
  · simp [afterPhases, Phase.frame, replyTo_ok rfl h0, okReply_wreg, hl, readReg_writeReg_same]

/-- Under the responder a register read that returns `Ok` returns the register's byte and leaves it, EXTERNAL's steps
before it apart (R52). -/
theorem rreg_returns_register (hl : s.params.link = .responder) (h : exec (.rreg a) s = .next t)
    (hok : t.status = .ok) :
    let found := foundCfg 0 s s.cfg
    t.response = some (.ok (.byte (readReg found a))) ∧ t.rbyte = readReg found a ∧ t.cfg = found ∧
      t.trace.length = s.trace.length + 1 := by
  obtain ⟨pl, hpl, hlink, rfl⟩ := exec_status_ok h rfl hok
  cases (exposed_ok hpl).2
  have h0 : (currentTurn s).fault = none := hlink 0 Nat.one_pos
  simp [afterPhases, afterPhase, Phase.frame, replyTo_ok rfl h0, okReply_rreg, hl, Phase.capture, complete,
    finishEffect, finishValue, foundCfg, turnAt, spent]

end Sys2Proof.Machine
end

section
/-! `EXTERNAL_INTERFERENCE` disabled (R46): an operation does not look at what the script says of EXTERNAL. -/

namespace Sys2Proof.Machine

open Sys2Proof.Safety Sys2Proof.Claims

variable {s : State}

/-- The state whose script says nothing of EXTERNAL. -/
def withoutExternal (s : State) : State := { s with script := s.script.map fun t => { t with external := [] } }

@[simp] theorem withoutExternal_seq (s : State) : (withoutExternal s).seq = s.seq := rfl
@[simp] theorem withoutExternal_params (s : State) : (withoutExternal s).params = s.params := rfl

/-- With `EXTERNAL_INTERFERENCE` disabled a transaction finds `CFG` as the one before left it. -/
theorem afterExternal_disabled {p : Config.Params} (h : p.externalInterference = false) (t : Turn) (cfg : Regs) :
    afterExternal p t cfg = cfg := by
  simp [afterExternal, h]

theorem replyTo_disabled (h : s.params.externalInterference = false) (f : Frame) :
    replyTo f s = linkReply s.params (currentTurn s) f s.cfg s.samples := by
  rw [replyTo, afterExternal_disabled h]

theorem currentTurn_withoutExternal (s : State) :
    currentTurn (withoutExternal s) = currentTurn s ∨
      currentTurn (withoutExternal s) = { currentTurn s with external := [] } := by
  cases h : s.script with
  | nil => exact .inl (currentTurn_congr (by simp [withoutExternal, h]) rfl rfl)
  | cons t ts => exact .inr (by simp [currentTurn, withoutExternal, h])

variable (h : s.params.externalInterference = false)
include h

theorem replyTo_withoutExternal (f : Frame) : replyTo f (withoutExternal s) = replyTo f s := by
  have hw : (withoutExternal s).params.externalInterference = false := h
  rw [replyTo_disabled hw, replyTo_disabled h]
  rcases currentTurn_withoutExternal s with ht | ht <;> rw [ht] <;> rfl

theorem issue_withoutExternal (f : Frame) : issue f (withoutExternal s) = withoutExternal (issue f s) := by
  simp only [issue, replyTo_withoutExternal h, consumeTurn_eq]
  simp [withoutExternal]

theorem advance_withoutExternal (i : Instr) (pl : Plan) (k : Nat) (ph : Phase) :
    advance i pl k ph (withoutExternal s) = withoutExternal (advance i pl k ph s) := by
  have hframe : ph.frame (withoutExternal s) = ph.frame s := by cases ph <;> rfl
  have hcapture : ∀ rx (u : State), ph.capture rx (withoutExternal u) = withoutExternal (ph.capture rx u) := by
    intro rx u; unfold Phase.capture; split <;> rfl
  have hcomplete : ∀ u : State, complete pl.finish (withoutExternal u) = withoutExternal (complete pl.finish u) := by
    intro u; cases pl.finish <;> rfl
  simp only [advance, hframe, replyTo_withoutExternal h, issue_withoutExternal h, hcapture, hcomplete]
  split
  · rfl
  · split <;> rfl

theorem runPhases_withoutExternal (i : Instr) (pl : Plan) (k : Nat) (phs : List Phase) :
    runPhases i pl k phs (withoutExternal s) = withoutExternal (runPhases i pl k phs s) := by
  induction phs generalizing k s with
  | nil => rfl
  | cons ph rest ih =>
    simp only [runPhases, advance_withoutExternal h, withoutExternal_seq]
    split
    · rfl
    · exact ih (by simpa using h) _

/-- The outcome with a next state whose script says nothing of EXTERNAL. -/
def outcomeWithoutExternal : Host.Outcome State Fault Refusal → Host.Outcome State Fault Refusal
  | .next t => .next (withoutExternal t)
  | .fault r => .fault r
  | .refused r => .refused r

omit h in
theorem present_withoutExternal (x : Except Refusal Value) (s : State) :
    present x (withoutExternal s) = outcomeWithoutExternal (present x s) := by
  simp only [present, withoutExternal_seq, withoutExternal_params]
  split
  · rfl
  · split <;> rfl

theorem perform_withoutExternal (i : Instr) (plan : Except Refusal Plan) :
    perform i plan (withoutExternal s) = outcomeWithoutExternal (perform i plan s) := by
  have hinvoke : invoke i (withoutExternal s) = withoutExternal (invoke i s) := rfl
  have hrun := fun pl => runPhases_withoutExternal (s := invoke i s) h i pl 0 pl.phases
  simp only [perform, withoutExternal_seq, hinvoke, hrun]
  split
  · rfl
  · split <;> rfl

/-- With `EXTERNAL_INTERFERENCE` disabled what the script says of EXTERNAL makes no difference to an operation. -/
theorem exec_withoutExternal (i : Instr) : exec i (withoutExternal s) = outcomeWithoutExternal (exec i s) := by
  cases hp : isPure i with
  | true => rw [exec_of_pure i _ hp, exec_of_pure i s hp, withoutExternal_params, present_withoutExternal]
  | false => rw [exec_of_bus i _ hp, exec_of_bus i s hp, withoutExternal_params, perform_withoutExternal h]

end Sys2Proof.Machine
end

section
/-! The obligations about `CFG` under the reference responder, about EXTERNAL disabled, and that an operation always has
a step. -/

namespace Sys2Proof.Proofs

open Sys2Proof.Machine Sys2Proof.Safety Sys2Proof.Claims

/-- Settles O29: the write leaves the byte in the register, the operations between keep it there, and the read returns
it. -/
theorem responderReadsBackWhatWasWritten : Obligations.ResponderReadsBackWhatWasWritten := by
  intro s t t' u a v between hl hwrite hwok hkeep hto hread hrok hq _
  obtain ⟨n, hpos, hbehind, hcfg⟩ := (holds_of_wreg hl hwrite hwok).afterOperations hkeep hto
  have hl' : t'.params.link = .responder := by rw [hbehind.params, hl]
  obtain ⟨hresponse, hrbyte, hcfg', hlen⟩ := rreg_returns_register hl' hread hrok
  rw [hlen, hbehind.trace] at hq
  have hquiet := hbehind.quietAt_zero (hq n hpos (by omega))
  have hv : readReg t'.cfg a = v := hcfg fun k hk hkn => hq k hk (by omega)
  rw [foundCfg_of_quiet hquiet] at hresponse hrbyte hcfg'
  rw [hv] at hresponse hrbyte
  exact ⟨hresponse, hrbyte, by rw [hcfg', hv]⟩

/-- Settles O31, from the completion of the setters (O30): the byte written is the byte read with the field replaced. -/
theorem setterOverwritesExternalChange : Obligations.SetterOverwritesExternalChange := by
  intro s t i f c hi hs hl hok h hsettled
  have hfits := setterTarget_fits hi
  obtain ⟨d, cfg, hex, hanswers⟩ := settersReadThenWriteBack s i f c hi hs hok
  rw [hex] at h
  cases h
  obtain ⟨rfl, rfl⟩ := hanswers fun _ => hsettled
  simp only [linkReads, linkWrites, hl, readReg_writeReg_same]
  exact ⟨extractField_encodeField hfits, fun g hg hreg => extractField_encodeField_other hfits hg hreg,
    fun a ha => readReg_writeReg_other _ _ _ _ ha⟩

/-- Settles O43: a pure function unit presents its value, any other operation runs its expansion to its end. -/
theorem invocableOperationsAlwaysHaveAStep : Obligations.InvocableOperationsAlwaysHaveAStep := by
  intro i s hinv hs
  have next : ∃ t, exec i s = .next t := by
    cases hp : isPure i with
    | true =>
      obtain ⟨he, v, hv⟩ := pureValue_of_invocable hinv hp
      exact ⟨_, (exec_of_pure i s hp).trans (present_ok hs he hv)⟩
    | false =>
      obtain ⟨pl, hpl⟩ := plan_of_invocable hinv hp
      exact ⟨_, (exec_of_bus i s hp).trans (perform_ok hs hpl)⟩
  obtain ⟨t, ht⟩ := next
  exact ⟨t, ht, exec_seq ht⟩

/-- Settles O56: EXTERNAL's writes are applied only where `EXTERNAL_INTERFERENCE` is enabled, and nothing else looks at
them. -/
theorem disabledExternalHasNoStep : Obligations.DisabledExternalHasNoStep := by
  intro s h
  refine ⟨fun f u hu => replyTo_disabled (by rw [hu, h]) f, fun k cfg => afterExternal_disabled h _ cfg, ?_⟩
  rintro i _ rfl
  exact exec_withoutExternal h i

end Sys2Proof.Proofs
end

section
/-! The layer the encoding's obligations rest on: what the decoders accept, the first byte of a transaction, and the
codes the default parameters have no label for. -/

namespace Sys2Proof

open Sys2Proof.Machine Sys2Proof.Claims

/-! ### Command bytes (R58) -/

/-- The mask of `RESET` and `START` leaves no bit free. -/
theorem eq_of_matches_wholeMask {pattern b : Byte} (h : commandMatches wholeMask pattern b = true) : b = pattern := by
  have hmask : b &&& wholeMask = b := BitVec.and_allOnes
  rw [← hmask]
  exact eq_of_beq h

/-- The command bytes of an operation decode to it, whatever follows them. -/
theorem decode_append_of_encode {i : Instr} {bytes : List Byte} (h : encode i = some bytes) (rest : List Byte) :
    decode (bytes ++ rest) = .ok (i, rest) := by
  cases i
  case wreg a v => cases h; simp [decode, wregByte_matches a]
  case rreg a => cases h; simp [decode, rregByte_matches a]
  case reset => cases h; rfl
  case start => cases h; rfl
  all_goals cases h

/-- Bytes that decode begin with the operation's command bytes: in each branch of the decoder the bits under the mask
are the pattern's and the others are the address. -/
theorem encode_of_decode {bytes rest : List Byte} {i : Instr} (h : decode bytes = .ok (i, rest)) :
    ∃ head, encode i = some head ∧ bytes = head ++ rest := by
  cases bytes with
  | nil => cases h
  | cons b tail =>
    unfold decode at h
    dsimp only at h
    split at h
    next hreset => cases h; exact ⟨_, rfl, congrArg (· :: rest) (eq_of_matches_wholeMask hreset)⟩
    split at h
    next hstart => cases h; exact ⟨_, rfl, congrArg (· :: rest) (eq_of_matches_wholeMask hstart)⟩
    split at h
    next hrreg => cases h; exact ⟨_, rfl, congrArg (· :: rest) (rregByte_of_matches b hrreg)⟩
    split at h
    next hwreg =>
      split at h
      next v tail' => cases h; exact ⟨_, rfl, congrArg (· :: v :: rest) (wregByte_of_matches b hwreg)⟩
      next => cases h
    next => cases h

/-! ### Transactions (R57, R59) -/

/-- A frame that is a primitive has the primitive's transaction (R57). -/
theorem encodeTransaction_of_frame {f : Frame} {i : Instr} (h : f.instr = .ok i) :
    encodeTransaction i = some f.subOps := by
  cases f
  case wreg | rreg | start | sread => cases h; rfl
  case reset trailing => cases trailing <;> cases h; rfl
  case postResetWait => cases h

/-- A transaction decodes to a frame only where it waits as long as the frame requires. -/
theorem meetsWaits_of_decode {xs : List SubOp} {f : Frame} (h : Frame.decode xs = .ok f) :
    meetsWaits (normalForm xs) f.subOps = true := by
  unfold Frame.decode at h
  split at h
  next => cases h
  next =>
    split at h
    next hwaits => cases h; exact hwaits
    split at h
    next hwaits => cases h; exact (Bool.and_eq_true_iff.1 hwaits).2
    next => cases h

/-- What decodes to a primitive has been read as a frame that is the primitive. -/
theorem frame_of_decodeTransaction {xs : List SubOp} {i : Instr} (h : decodeTransaction xs = .ok i) :
    ∃ f, Frame.decode xs = .ok f ∧ f.instr = .ok i := by
  unfold decodeTransaction at h
  split at h
  next f hf => exact ⟨f, hf, h⟩
  next => cases h

theorem commandByte_mem_commandBytes : ∀ a : RegAddr,
    commandByte Config.cmdWreg a ∈ commandBytes ∧ commandByte Config.cmdRreg a ∈ commandBytes := by decide

/-- The first byte a frame transmits, if it transmits any, is a command byte (R59). -/
theorem firstByte_mem_commandBytes (f : Frame) : ∀ b ∈ (xactTransmits f.subOps).head?, b ∈ commandBytes := by
  intro b hb
  cases f
  case wreg a v => cases hb; exact (commandByte_mem_commandBytes a).1
  case rreg a => cases hb; exact (commandByte_mem_commandBytes a).2
  case reset trailing => cases trailing <;> cases hb <;> decide
  case start => cases hb; decide
  all_goals cases hb

/-! ### Typed views (R64, R73 to R76) -/

/-- A fallback is the label of no code (R66). -/
theorem variantLabel_fallback {p : Config.Params} {g : Field} {x : Variant} (h : fallbackOf g = some x) :
    variantLabel p x = none := by
  cases g <;> cases h <;> rfl

/-- A legal code is not shown as the fallback of any field, for it has a label of its own. -/
theorem enumDecode_ne_fallback {p : Config.Params} {f : Field} {c : Byte} (h : legalCode p f c = true) (g : Field) :
    enumDecode p f c ≠ fallbackOf g := by
  obtain ⟨x, hx, _, hc⟩ := enumEncode_enumDecode h
  intro hg
  have hlabel := (legal_of_enumEncode hc).2
  rw [variantLabel_fallback (hg.symm.trans hx)] at hlabel
  cases hlabel

/-- With the default parameters every code of an enumerated field is legal, `DATA_RATE` code 7 excepted (R64, D9). -/
theorem legalCode_default (f : Field) (c : BitVec (fieldWidth f)) (hf : f ≠ .reserved0)
    (h7 : f = .dataRate → c.toNat ≠ 7) : legalCode Config.defaultParams f (c.setWidth 8) = true := by
  revert c
  cases f
  case reserved0 => exact absurd rfl hf
  all_goals decide

/-- With the default parameters no code of another field than `DATA_RATE` is shown as a fallback. -/
theorem not_fallback_default {f g : Field} {c : BitVec (fieldWidth f)} (hf : f ≠ .reserved0 := by decide)
    (hd : f ≠ .dataRate := by decide) : fallbackOf g ≠ enumDecode Config.defaultParams f (c.setWidth 8) :=
  (enumDecode_ne_fallback (legalCode_default f c hf fun h => absurd h hd) g).symm

/-- With the default parameters a `DATA_RATE` code is shown as a fallback exactly where it is 7. -/
theorem fallback_eq_dataRate_default_iff {g : Field} {c : BitVec 3} :
    fallbackOf g = enumDecode Config.defaultParams .dataRate (c.setWidth 8) ↔ g = .dataRate ∧ c = 7 := by
  by_cases h7 : c = 7
  · subst h7
    cases g <;> decide
  · have hlegal := legalCode_default .dataRate c (by decide) fun _ hc => h7 (BitVec.eq_of_toNat_eq hc)
    exact iff_of_false (enumDecode_ne_fallback hlegal g).symm fun h => h7 h.2

/-- The three bits of `DATA_RATE` are all ones from `0xE0` on. -/
theorem dataRate_eq_seven_iff : ∀ v : Byte, (decodeReg1 v).dataRate = 7 ↔ 0xE0 ≤ v := by decide

end Sys2Proof

namespace Sys2Proof.Proofs

open Sys2Proof.Machine Sys2Proof.Safety Sys2Proof.Claims

/-- Settles O3: none of the masks of R58 takes a command byte of one operation for another's. -/
theorem encodedCommandBytesDecodeBack : Obligations.EncodedCommandBytesDecodeBack :=
  fun _ _ rest h => decode_append_of_encode h rest

/-- Settles O4: each branch of the decoder reads what the encoder writes. -/
theorem decodedCommandBytesAreEncodings : Obligations.DecodedCommandBytesAreEncodings :=
  fun _ _ _ h => encode_of_decode h

/-- Settles O6: the frame a transaction is read as has the primitive's own sub-operations, its waits checked. -/
theorem decodedTransactionsAreEncodings : Obligations.DecodedTransactionsAreEncodings := by
  intro xs i h
  obtain ⟨f, hf, hi⟩ := frame_of_decodeTransaction h
  exact ⟨f.subOps, encodeTransaction_of_frame hi, meetsWaits_of_decode hf⟩

/-- Settles O9: an operation does not read `TRACE`, so it appends what it appends to an empty one, where every entry is
in a format of R57. -/
theorem onlyTheTenCommandBytesAreSent : Obligations.OnlyTheTenCommandBytesAreSent := by
  intro i s t h
  obtain ⟨t', new, hexec, hnew, hnew', _⟩ := exec_withUnread { s with trace := [] } h
  have hformat := exec_entriesInFormat hexec fun _ he => absurd he List.not_mem_nil
  refine ⟨new, hnew, fun e he => ?_⟩
  obtain ⟨⟨f, hf⟩, _⟩ := hformat e (by rw [hnew']; exact he)
  exact ⟨⟨f, hf⟩, hf ▸ firstByte_mem_commandBytes f⟩

/-- Settles O1: each word is read by the decoder. -/
theorem tableWordsDecodeToTheirPrimitives : Obligations.TableWordsDecodeToTheirPrimitives :=
  ⟨rfl, rfl, rfl, rfl, rfl, rfl, rfl⟩

/-- Settles O2: the address lies in bits 3 and 2, where both bases have zeros. -/
theorem registerCommandIsBaseOrShiftedAddress : Obligations.RegisterCommandIsBaseOrShiftedAddress := by
  intro a v
  have address : (a.setWidth 8 <<< 2 : Byte).toNat ≤ 0x0C ∧ (0x40 &&& (a.setWidth 8 <<< 2) : Byte) = 0 ∧
      (0x20 &&& (a.setWidth 8 <<< 2) : Byte) = 0 := by
    revert a
    decide
  obtain ⟨hle, hwreg, hrreg⟩ := address
  exact ⟨rfl, rfl, hle, (BitVec.add_eq_or_of_and_eq_zero _ _ hwreg).symm,
    (BitVec.add_eq_or_of_and_eq_zero _ _ hrreg).symm⟩

/-- Settles O21: a code that is legal is not shown as a fallback, and under the default parameters all are legal but
`DATA_RATE` code 7. -/
theorem defaultTypedViewFallsBackOnlyOnDataRateSeven : Obligations.DefaultTypedViewFallsBackOnlyOnDataRateSeven := by
  intro v
  refine ⟨fun f _ => ?_, fun f _ => ?_, fun f _ => ?_, fun f _ => ?_⟩
  · simp only [typedView0, List.mem_cons, List.not_mem_nil, or_false, not_or]
    exact ⟨not_fallback_default, not_fallback_default, not_fallback_default⟩
  · have others : fallbackOf f ∉ (typedView1 Config.defaultParams (decodeReg1 v)).tail := by
      simp only [typedView1, List.tail_cons, List.mem_cons, List.not_mem_nil, or_false, not_or]
      exact ⟨not_fallback_default, not_fallback_default, not_fallback_default, not_fallback_default⟩
    calc fallbackOf f ∈ typedView1 Config.defaultParams (decodeReg1 v)
        ↔ fallbackOf f = enumDecode Config.defaultParams .dataRate ((decodeReg1 v).dataRate.setWidth 8) :=
          List.mem_cons.trans (or_iff_left others)
      _ ↔ f = .dataRate ∧ (decodeReg1 v).dataRate = 7 := fallback_eq_dataRate_default_iff
      _ ↔ f = .dataRate ∧ 0xE0 ≤ v := and_congr_right' (dataRate_eq_seven_iff v)
  · simp only [typedView2, List.mem_cons, List.not_mem_nil, or_false, not_or]
    exact ⟨not_fallback_default, not_fallback_default, not_fallback_default, not_fallback_default⟩
  · simp only [typedView3, List.mem_cons, List.not_mem_nil, or_false, not_or]
    exact ⟨not_fallback_default, not_fallback_default, not_fallback_default⟩

end Sys2Proof.Proofs
end

section
/-! The layer the register model's obligations rest on: what a pure function unit answers, `ENCODE` and `EXTRACT` bit by
bit, a register as the sum of its fields, and the enumeration mapping read in both directions. -/

namespace Sys2Proof.Machine

open Sys2Proof.Claims

/-! ### What a pure function unit answers (D24) -/

/-- An exposed pure function unit completes with its value; nothing but the response changes. -/
theorem exec_pure_next {i : Instr} {s : State} {v : Value} (hp : isPure i = true) (hs : s.seq = .idle)
    (he : s.params.exposePrimitives = true) (hv : pureValue s.params i = .ok v) :
    exec i s = .next { s with response := some (.ok v) } :=
  (exec_of_pure i s hp).trans (present_ok hs he hv)

/-- An exposed pure function unit without a value refuses. -/
theorem exec_pure_refused {i : Instr} {s : State} {r : Refusal} (hp : isPure i = true) (hs : s.seq = .idle)
    (he : s.params.exposePrimitives = true) (hv : pureValue s.params i = .error r) : exec i s = .refused r :=
  (exec_of_pure i s hp).trans (present_error hs he hv)

/-- `ENUM_ENCODE` answers the code of a variant (R77). -/
theorem exec_enumEncode_next {x : Variant} {s : State} {c : Byte} (hs : s.seq = .idle)
    (he : s.params.exposePrimitives = true) (hc : enumEncode s.params x = some c) :
    exec (.enumEncode x) s = .next { s with response := some (.ok (.code c)) } :=
  exec_pure_next rfl hs he (congrArg (Except.map _) (checkedVariant_ok hc))

/-- The value of `ENUM_DECODE` on a code of an enumerated field (R78). -/
theorem enumDecodeValue_ok {p : Config.Params} {f : Field} {c : Byte} {x : Variant} (hc : codeFits f c = true)
    (hx : enumDecode p f c = some x) : enumDecodeValue p f c = .ok (.variant x) := by
  simp only [enumDecodeValue, checkedCode_ok hc, hx]

theorem codeFits_iff {f : Field} {c : Byte} : codeFits f c = true ↔ c.toNat < 2 ^ fieldWidth f :=
  decide_eq_true_iff

/-! ### `ENCODE` and `EXTRACT` (R71, R72, R80, R81) -/

/-- Outside the mask `ENCODE` leaves every bit (R80). -/
theorem encodeField_and_not_fieldMask {f : Field} {c : Byte} (cur : Byte) (h : c.toNat < 2 ^ fieldWidth f) :
    encodeField f cur c &&& ~~~fieldMask f = cur &&& ~~~fieldMask f := by
  apply byte_ext
  intro i hi
  rw [BitVec.getLsbD_and, BitVec.getLsbD_and, BitVec.getLsbD_not, fieldMask_bit, encodeField_bit h hi]
  split
  next inside => simp [inside]
  next => rfl

/-- Of two codes written into one field the second stands (R81 (1)). -/
theorem encodeField_overwrite {f : Field} {c₁ c₂ : Byte} (cur : Byte) (h₁ : c₁.toNat < 2 ^ fieldWidth f)
    (h₂ : c₂.toNat < 2 ^ fieldWidth f) : encodeField f (encodeField f cur c₁) c₂ = encodeField f cur c₂ := by
  apply byte_ext
  intro i hi
  rw [encodeField_bit h₂ hi, encodeField_bit h₂ hi, encodeField_bit h₁ hi]
  split <;> rfl

/-- Writing back the code a field has changes nothing (R81 (2)). -/
theorem encodeField_extractField (f : Field) (cur : Byte) : encodeField f cur (extractField f cur) = cur := by
  apply byte_ext
  intro i hi
  rw [encodeField_bit (extractField_lt f cur) hi]
  split
  next inside =>
    obtain ⟨hlow, hhigh⟩ := inside
    have hindex : i - fieldShift f < fieldWidth f := by omega
    rw [extractField_bit, Nat.add_sub_cancel' hlow, decide_eq_true hindex, Bool.true_and]
  next => rfl

/-- Writes of two fields of one register commute, for no bit is in both (R81 (3)). -/
theorem encodeField_comm {f g : Field} {c d : Byte} (cur : Byte) (hne : f ≠ g) (hreg : fieldReg f = fieldReg g)
    (hc : c.toNat < 2 ^ fieldWidth f) (hd : d.toNat < 2 ^ fieldWidth g) :
    encodeField f (encodeField g cur d) c = encodeField g (encodeField f cur c) d := by
  have hdisjoint := fields_disjoint f g hne hreg
  apply byte_ext
  intro i hi
  rw [encodeField_bit hc hi, encodeField_bit hd hi, encodeField_bit hd hi, encodeField_bit hc hi]
  split
  next inside => rw [if_neg (by omega)]
  next => rfl

/-- `EXTRACT` is the field's bit range. -/
theorem extractField_eq_extractLsb' (f : Field) (v : Byte) :
    extractField f v = (v.extractLsb' (fieldShift f) (fieldWidth f)).setWidth 8 := by
  apply byte_ext
  intro i hi
  rw [extractField_bit, BitVec.getLsbD_setWidth, BitVec.getLsbD_extractLsb', decide_eq_true hi, Bool.true_and]

/-- Shifted back into its place, the code of a field is the byte under the field's mask. -/
theorem extractField_shiftLeft (f : Field) (v : Byte) : extractField f v <<< fieldShift f = v &&& fieldMask f := by
  apply byte_ext
  intro i hi
  rw [BitVec.getLsbD_shiftLeft, extractField_bit, BitVec.getLsbD_and, fieldMask_bit]
  by_cases hlow : fieldShift f ≤ i
  · have hindex : i - fieldShift f < fieldWidth f ↔ i < fieldShift f + fieldWidth f := by omega
    simp [hi, hlow, hindex, Bool.and_comm]
  · simp [hlow]

/-! ### A register is its fields (R62, R81 (4)) -/

/-- The masks of a register leave no bit out (R62). -/
theorem foldl_fieldMask : ∀ a : RegAddr,
    (fieldsOf a).foldl (fun acc f => acc ||| fieldMask f) 0 = BitVec.allOnes 8 := by decide

/-- The codes of all fields, each in its place, make up the byte (R81 (4)). -/
theorem reassemble (a : RegAddr) (v : Byte) :
    ((fieldsOf a).map fun f => extractField f v <<< fieldShift f).foldl (· ||| ·) 0 = v := by
  have hzero : v &&& 0 = 0 := BitVec.and_zero
  calc ((fieldsOf a).map fun f => extractField f v <<< fieldShift f).foldl (· ||| ·) 0
      = (fieldsOf a).foldl (fun acc f => acc ||| (v &&& fieldMask f)) (v &&& 0) := by
        simp only [extractField_shiftLeft, List.foldl_map, hzero]
    _ = v &&& (fieldsOf a).foldl (fun acc f => acc ||| fieldMask f) 0 :=
        List.foldl_hom (v &&& ·) fun acc f => BitVec.and_or_distrib_left.symm
    _ = v := by rw [foldl_fieldMask, BitVec.and_allOnes]

/-- A byte is known by the codes of its fields. -/
theorem eq_of_extractFields_eq {a : RegAddr} {v w : Byte}
    (h : (fieldsOf a).map (extractField · v) = (fieldsOf a).map (extractField · w)) : v = w := by
  have hcodes := List.map_inj_left.1 h
  rw [← reassemble a v, ← reassemble a w]
  exact congrArg _ (List.map_congr_left fun f hf => by rw [hcodes f hf])

/-! ### The enumeration mapping (R65, R66, R77, R78) -/

/-- A variant's label, where it is legal, is its code. -/
theorem enumEncode_of_legal {p : Config.Params} {x : Variant} {c : Byte} (hlabel : variantLabel p x = some c)
    (hlegal : legalCode p (variantField x) c = true) : enumEncode p x = some c := by
  simp only [enumEncode, hlabel, hlegal, if_true]

/-- `ENUM_ENCODE` answers "the unique c in `LEGAL[F]` whose variant is X" (R77). -/
theorem enumEncode_eq_some_iff {p : Config.Params} {x : Variant} {c : Byte} : enumEncode p x = some c ↔
    legalCode p (variantField x) c = true ∧ enumDecode p (variantField x) c = some x := by
  constructor
  · exact fun h => ⟨(legal_of_enumEncode h).1, enumDecode_enumEncode h⟩
  · rintro ⟨hlegal, hx⟩
    obtain ⟨y, hy, _, hc⟩ := enumEncode_enumDecode hlegal
    rwa [Option.some.inj (hx.symm.trans hy)]

/-- The reserved routing variants have the code `RESERVED_ROUTE_CODE` (R64, R77). -/
theorem enumEncode_reservedRoute (p : Config.Params) :
    enumEncode p (.idac1Route .reserved) = some (p.reservedRoute.setWidth 8) ∧
    enumEncode p (.idac2Route .reserved) = some (p.reservedRoute.setWidth 8) := by
  have hfits : (p.reservedRoute.setWidth 8 : Byte).toNat < 2 ^ 3 := by
    rw [BitVec.toNat_setWidth_of_le (by decide)]
    exact p.reservedRoute.isLt
  exact ⟨enumEncode_of_legal rfl (Bool.and_eq_true_iff.2 ⟨decide_eq_true hfits, rfl⟩),
    enumEncode_of_legal rfl (Bool.and_eq_true_iff.2 ⟨decide_eq_true hfits, rfl⟩)⟩

/-- The fallback is no variant (R66). -/
theorem enumEncode_fallback {p : Config.Params} {f : Field} {x : Variant} (h : fallbackOf f = some x) :
    enumEncode p x = none := by
  simp only [enumEncode, variantLabel_fallback h]

/-- A code that is not legal is shown as the fallback of its field (R78). -/
theorem enumDecode_of_not_legal {p : Config.Params} {f : Field} {c : Byte} (h : legalCode p f c = false) :
    enumDecode p f c = fallbackOf f := by
  cases f <;> simp [enumDecode, fallbackOf, h]

/-- Each enumerated field has a fallback, which belongs to it. -/
theorem fallbackOf_enumerated {f : Field} (hf : f ≠ .reserved0) :
    ∃ x, fallbackOf f = some x ∧ variantField x = f := by
  cases f
  case reserved0 => exact absurd rfl hf
  all_goals exact ⟨_, rfl, rfl⟩

/-- `ENUM_DECODE` is total on an enumerated field: a legal code has its variant, and the fallback is what the others
are shown as, and they alone (R78). -/
theorem enumDecode_total {f : Field} (hf : f ≠ .reserved0) (p : Config.Params) (c : Byte) :
    ∃ x, enumDecode p f c = some x ∧ variantField x = f ∧
      (legalCode p f c = true → enumEncode p x = some c) ∧ (fallbackOf f = some x ↔ legalCode p f c = false) := by
  cases hlegal : legalCode p f c with
  | true =>
    obtain ⟨x, hx, hfield, hc⟩ := enumEncode_enumDecode hlegal
    have hne : fallbackOf f ≠ some x := fun h => enumDecode_ne_fallback hlegal f (hx.trans h.symm)
    exact ⟨x, hx, hfield, fun _ => hc, iff_of_false hne (by decide)⟩
  | false =>
    obtain ⟨x, hx, hfield⟩ := fallbackOf_enumerated hf
    exact ⟨x, (enumDecode_of_not_legal hlegal).trans hx, hfield, nofun, iff_of_true hx rfl⟩

/-! ### The default legal sets (R64) -/

/-- Which codes are legal depends on the legal sets alone. -/
theorem legalCode_of_defaultLegalSets {p : Config.Params} (h : defaultLegalSets p) (f : Field) (c : Byte) :
    legalCode p f c = legalCode Config.defaultParams f c := by
  obtain ⟨hgain, hmode, hvref, hfir, hidac, hrate⟩ := h
  cases f
  case gain => simp only [legalCode, hgain]
  case operatingMode => simp only [legalCode, hmode]
  case vrefSelect => simp only [legalCode, hvref]
  case firFilter => simp only [legalCode, hfir]
  case idacCurrent => simp only [legalCode, hidac]
  case dataRate => simp only [legalCode, hrate]
  all_goals rfl

/-- With the default legal sets `DATA_RATE` code 7 is the one code of an enumerated field that is not legal. -/
theorem legalCode_eq_false_iff {p : Config.Params} (h : defaultLegalSets p) {f : Field} {c : Byte}
    (hf : f ≠ .reserved0) (hc : c.toNat < 2 ^ fieldWidth f) :
    legalCode p f c = false ↔ f = .dataRate ∧ c = 7 := by
  rw [legalCode_of_defaultLegalSets h]
  constructor
  · intro hillegal
    by_contra hother
    have hwidth : (c.setWidth (fieldWidth f)).toNat = c.toNat := by
      rw [BitVec.toNat_setWidth, Nat.mod_eq_of_lt hc]
    have hcode : (c.setWidth (fieldWidth f)).setWidth 8 = c :=
      BitVec.eq_of_toNat_eq (by rw [BitVec.toNat_setWidth, hwidth, Nat.mod_eq_of_lt c.isLt])
    have hlegal := legalCode_default f (c.setWidth (fieldWidth f)) hf fun hrate hseven =>
      hother ⟨hrate, BitVec.eq_of_toNat_eq (hwidth.symm.trans hseven)⟩
    rw [hcode, hillegal] at hlegal
    cases hlegal
  · rintro ⟨rfl, rfl⟩
    decide

end Sys2Proof.Machine
end

section
/-! The obligations about the register model: `ENCODE`, `EXTRACT`, the four decoders and the enumeration mapping. -/

namespace Sys2Proof.Proofs

open Sys2Proof.Machine Sys2Proof.Claims

/-- Settles O15: `ENUM_ENCODE` and `ENUM_DECODE` are inverse on the legal codes, so a variant has one code only. -/
theorem enumEncodeReturnsTheUniqueLegalCode : Obligations.EnumEncodeReturnsTheUniqueLegalCode := by
  intro s hs he
  refine ⟨?_, ?_, ?_⟩
  · rintro x ⟨c, hvariant⟩
    have hc := enumEncode_eq_some_iff.2 hvariant
    refine ⟨c, exec_enumEncode_next hs he hc, fits_of_legal hvariant.1, hvariant.1, fun c' hlegal' hx' => ?_⟩
    exact Option.some.inj ((enumEncode_eq_some_iff.2 ⟨hlegal', hx'⟩).symm.trans hc)
  · obtain ⟨hroute1, hroute2⟩ := enumEncode_reservedRoute s.params
    exact List.forall_mem_cons.2 ⟨exec_enumEncode_next hs he hroute1,
      List.forall_mem_singleton.2 (exec_enumEncode_next hs he hroute2)⟩
  · intro f x hx
    exact exec_pure_refused rfl hs he (congrArg (Except.map _) (checkedVariant_error (enumEncode_fallback hx)))

/-- Settles O16: `ENUM_DECODE` shows the fallback for the codes that are not legal, and by default that is one code. -/
theorem enumDecodeReturnsTheVariantOrTheFallback : Obligations.EnumDecodeReturnsTheVariantOrTheFallback := by
  intro s f c hs he hf hc
  obtain ⟨x, hx, hfield, hlegal, hfallback⟩ := enumDecode_total hf s.params c
  exact ⟨x, exec_pure_next rfl hs he (enumDecodeValue_ok (codeFits_iff.2 hc) hx), hfield, hlegal, hfallback.2,
    fun hdefault => hfallback.trans (legalCode_eq_false_iff hdefault hf hc)⟩

/-- Settles O17: the code of a variant is legal and so fits its field, which gives the typed form from the raw one. -/
theorem encodeExtractRoundTrip : Obligations.EncodeExtractRoundTrip := by
  refine ⟨fun f cur c hc => extractField_encodeField hc, fun p x cur c hx => ?_⟩
  rw [extractField_encodeField (fits_of_legal (legal_of_enumEncode hx).1)]
  exact enumDecode_enumEncode hx

/-- Settles O18: bit by bit, the fields of a register being disjoint. -/
theorem encodeLeavesTheOtherFields : Obligations.EncodeLeavesTheOtherFields :=
  fun _ cur _ hc => ⟨encodeField_and_not_fieldMask cur hc,
    fun _ hne hreg => extractField_encodeField_other hc hne hreg⟩

/-- Settles O14: `EXTRACT` is the bit range of the field, and the decoders read the bit ranges of the descriptors. -/
theorem decodedComponentsAreExtracts : Obligations.DecodedComponentsAreExtracts := by
  intro v
  simp only [extractField_eq_extractLsb']
  exact ⟨rfl, rfl, rfl, rfl⟩

/-- Settles O19: the laws of one byte go bit by bit; a decoder loses nothing, for its components are the codes the byte
is reassembled from. -/
theorem encodeOverwriteIdentityCommuteReassemble : Obligations.EncodeOverwriteIdentityCommuteReassemble := by
  refine ⟨fun _ cur _ _ => encodeField_overwrite cur, encodeField_extractField,
    fun _ _ cur _ _ hne hreg => encodeField_comm cur hne hreg, reassemble, fun v w => ?_,
    fun _ _ _ => enumDecode_enumEncode, fun p f c hlegal => ?_⟩
  · obtain ⟨v0, v1, v2, v3⟩ := decodedComponentsAreExtracts v
    obtain ⟨w0, w1, w2, w3⟩ := decodedComponentsAreExtracts w
    exact ⟨fun h => eq_of_extractFields_eq (by rw [← v0, ← w0, h]),
      fun h => eq_of_extractFields_eq (by rw [← v1, ← w1, h]),
      fun h => eq_of_extractFields_eq (by rw [← v2, ← w2, h]),
      fun h => eq_of_extractFields_eq (by rw [← v3, ← w3, h])⟩
  · obtain ⟨x, hx, _, hc⟩ := enumEncode_enumDecode hlegal
    exact ⟨x, hx, hc⟩

/-- Settles O11: `ENCODE` answers for the codes that fit, and refuses the others without masking them. -/
theorem encodeClearsTheMaskAndOrsTheCode : Obligations.EncodeClearsTheMaskAndOrsTheCode := by
  intro s f cur c hs he
  constructor
  · intro hc
    exact exec_pure_next rfl hs he (congrArg (Except.map _) (checkedCode_ok (codeFits_iff.2 hc)))
  · intro hwide
    have hfits : codeFits f c = false := decide_eq_false (Nat.not_lt.2 hwide)
    exact exec_pure_refused rfl hs he (congrArg (Except.map _) (checkedCode_error hfits))

/-- Settles O12: `EXTRACT` has a value on every byte, of the field's width. -/
theorem extractMasksAndShifts : Obligations.ExtractMasksAndShifts :=
  fun _ f v hs he => ⟨exec_pure_next rfl hs he rfl, extractField_lt f v⟩

/-- Settles O13: the decoders read the bit ranges, written there by lowest bit and width. -/
theorem decodersReturnTheBitRanges : Obligations.DecodersReturnTheBitRanges :=
  fun _ _ hs he => ⟨exec_pure_next rfl hs he rfl, exec_pure_next rfl hs he rfl, exec_pure_next rfl hs he rfl,
    exec_pure_next rfl hs he rfl⟩

end Sys2Proof.Proofs
end

section
/-! The transaction executor's primitives, each one transaction answered with `Ok` (R83 to R88), and the obligations
about them. -/

namespace Sys2Proof.Machine

open Sys2Proof.Claims

/-! ### The state behind a primitive's transaction -/

section
variable {s : State} (hok : (currentTurn s).fault = none)
include hok

/-- The state behind a command, answered with `Ok`. -/
theorem afterPhase_command (f : Frame) :
    afterPhase (.command f) s =
      let r := okReply s.params (currentTurn s) f s.cfg s.samples
      { consumeTurn s with
        cfg := r.cfg, samples := r.samples, trace := s.trace ++ [TraceEntry.mk f.subOps r.rx none] } := by
  simp only [afterPhase, Phase.frame, issue_ok rfl hok, afterOk, consumeTurn_eq]
  rfl

/-- The state behind a register write, answered with `Ok` (R51, R84). -/
theorem afterPhase_wreg (a : RegAddr) (v : Byte) :
    afterPhase (.command (.wreg a v)) s =
      { consumeTurn s with
        cfg := linkWrites 0 s (foundCfg 0 s s.cfg) a v, trace := s.trace ++ [writeEntry a v] } := by
  rw [afterPhase_command hok, okReply_wreg, consumeTurn_eq]
  rfl

/-- The state behind the reset command, answered with `Ok` (R53, R86). -/
theorem afterPhase_reset :
    afterPhase (.command (.reset false)) s =
      { consumeTurn s with cfg := linkResets 0 s, trace := s.trace ++ [resetEntry] } := by
  rw [afterPhase_command hok, okReply_reset, consumeTurn_eq]
  rfl

/-- The state behind the start command, answered with `Ok` (R54, R87). -/
theorem afterPhase_start :
    afterPhase (.command .start) s =
      { consumeTurn s with cfg := foundCfg 0 s s.cfg, trace := s.trace ++ [startEntry] } := by
  rw [afterPhase_command hok, okReply_start, consumeTurn_eq]
  rfl

/-- The state behind a direct register read, answered with `Ok` (R52, R85). -/
theorem afterPhase_readByte (a : RegAddr) :
    afterPhase (.readByte a) s =
      let found := foundCfg 0 s s.cfg
      let d := linkReads 0 s found a
      { consumeTurn s with rbyte := d, cfg := found, trace := s.trace ++ [readEntry a d] } := by
  simp only [afterPhase, Phase.frame, issue_ok rfl hok, replyTo_ok rfl hok, okReply_rreg, afterOk, consumeTurn_eq]
  rfl

/-- The state behind a sample read, answered with `Ok` (R55, R88). -/
theorem afterPhase_readSample :
    afterPhase .readSample s =
      let x := (linkSample 0 s).1
      { consumeTurn s with
        rxbuf := x, cfg := foundCfg 0 s s.cfg, samples := (linkSample 0 s).2
        trace := s.trace ++ [sampleEntry x] } := by
  simp only [afterPhase, Phase.frame, issue_ok rfl hok, replyTo_ok rfl hok, okReply_sread, afterOk, consumeTurn_eq]
  rfl

end

/-! ### A primitive answered with `Ok` -/

@[simp] theorem afterPhase_seq (ph : Phase) (s : State) : (afterPhase ph s).seq = s.seq := by simp [afterPhase]

/-- A completion that computes nothing, `SEQ` apart, writes `STATUS` and the response. -/
theorem complete_of_idle {fin : Finish} {s : State} (hs : s.seq = .idle) (hfin : finishEffect fin s = s) :
    complete fin s = { s with status := .ok, response := some (.ok (finishValue fin s)) } := by
  have hvalue : finishValue fin (setStatusOk s) = finishValue fin s := by cases fin <;> rfl
  rw [complete, hfin, hvalue, ← hs]
  rfl

/-- A primitive that is exposed and answered with `Ok` completes: its one transaction, `STATUS` and the response
(R83). -/
theorem exec_primitive {i : Instr} {ph : Phase} {fin : Finish} {s : State} (hs : s.seq = .idle)
    (he : s.params.exposePrimitives = true) (hok : linkOk 1 s) (hbus : isPure i = false)
    (hpl : planOf s.params i = exposed s.params (.ok ⟨[ph], fin⟩)) (hfin : ∀ u, finishEffect fin u = u) :
    exec i s = .next { afterPhase ph s with
      status := .ok, response := some (.ok (finishValue fin (afterPhase ph s))) } := by
  have hidle : (afterPhase ph s).seq = .idle := (afterPhase_seq ph s).trans hs
  rw [exec_allOk hs hbus (hpl.trans (exposed_true _ he)) hok]
  exact congrArg Host.Outcome.next (complete_of_idle hidle (hfin _))

end Sys2Proof.Machine

namespace Sys2Proof.Proofs

open Sys2Proof.Machine Sys2Proof.Claims

/-- Settles O25: the far end is the LINK's answer to the one write. -/
theorem wregIssuesOneWrite : Obligations.WregIssuesOneWrite := by
  intro s a v hs he hok
  refine ⟨_, ?_, fun _ => rfl⟩
  rw [exec_primitive hs he hok rfl rfl fun _ => rfl, afterPhase_wreg (s := s) (hok 0 Nat.one_pos)]
  rfl

/-- Settles O26: the byte captured is the LINK's answer to the one read. -/
theorem rregReturnsTheCapturedByte : Obligations.RregReturnsTheCapturedByte := by
  intro s a hs he hok
  refine ⟨_, _, ?_, fun _ => ⟨rfl, rfl⟩⟩
  rw [exec_primitive hs he hok rfl rfl fun _ => rfl, afterPhase_readByte (s := s) (hok 0 Nat.one_pos)]
  rfl

/-- Settles O27: each command is one transaction, and only the reset changes the far end. -/
theorem resetAndStartIssueOneCommand : Obligations.ResetAndStartIssueOneCommand := by
  intro s hs he hok
  refine ⟨⟨_, ?_, fun _ => rfl⟩, _, ?_, fun _ => rfl⟩
  · rw [exec_primitive hs he hok rfl rfl fun _ => rfl, afterPhase_reset (s := s) (hok 0 Nat.one_pos)]
    rfl
  · rw [exec_primitive hs he hok rfl rfl fun _ => rfl, afterPhase_start (s := s) (hok 0 Nat.one_pos)]
    rfl

/-- Settles O28: the sample and the stream behind it are the LINK's answer to the one sample read. -/
theorem sreadReturnsTheThreeBytes : Obligations.SreadReturnsTheThreeBytes := by
  intro s hs he hok
  refine ⟨_, _, _, ?_, fun _ => ⟨rfl, rfl, rfl⟩⟩
  rw [exec_primitive hs he hok rfl rfl fun _ => rfl, afterPhase_readSample (s := s) (hok 0 Nat.one_pos)]
  rfl

end Sys2Proof.Proofs
end

section
/-! A run as its answers alone decide it: neither the operation's name nor `SEQ`, `STATUS` or the last response matters.
An operation that aborts, an operation that begins as another does, and the obligations that rest on them. -/

namespace Sys2Proof.Machine

open Sys2Proof.Claims

variable {s : State}

/-! ### The run of an expansion, `SEQ` apart -/

/-- The transactions of an expansion up to its completion or its first fault. -/
def runToEnd (fin : Finish) : List Phase → State → State
  | [], s => complete fin s
  | ph :: rest, s =>
    match (currentTurn s).fault with
    | some e => raiseTransportFault e (issue (ph.frame s) s)
    | none => runToEnd fin rest (afterPhase ph s)

theorem runToEnd_fault {ph : Phase} {e : TransportError} (h : (currentTurn s).fault = some e) (fin : Finish)
    (rest : List Phase) : runToEnd fin (ph :: rest) s = raiseTransportFault e (issue (ph.frame s) s) := by
  simp [runToEnd, h]

theorem runToEnd_ok (h : (currentTurn s).fault = none) (fin : Finish) (ph : Phase) (rest : List Phase) :
    runToEnd fin (ph :: rest) s = runToEnd fin rest (afterPhase ph s) := by
  simp [runToEnd, h]

/-- The state with `SEQ`, `STATUS` and the last response replaced. -/
def withPort (q : Seq) (st : Status) (r : Option Response) (s : State) : State :=
  { s with seq := q, status := st, response := r }

section
variable (q : Seq) (st : Status) (r : Option Response) (s : State)

theorem frame_withPort (ph : Phase) : ph.frame (withPort q st r s) = ph.frame s := by cases ph <;> rfl

theorem issue_withPort (f : Frame) : issue f (withPort q st r s) = withPort q st r (issue f s) := by
  simp only [issue, withPort, consumeTurn_eq]; rfl

/-- No transaction looks at `SEQ`, `STATUS` or the last response. -/
theorem afterPhase_withPort (ph : Phase) : afterPhase ph (withPort q st r s) = withPort q st r (afterPhase ph s) := by
  have hreply : replyTo (ph.frame s) (withPort q st r s) = replyTo (ph.frame s) s := rfl
  rw [afterPhase, frame_withPort, hreply, issue_withPort, afterPhase]
  unfold Phase.capture
  split <;> rfl

/-- A run neither looks at `SEQ`, `STATUS` and the last response nor leaves them. -/
theorem runToEnd_withPort (fin : Finish) (phs : List Phase) :
    runToEnd fin phs (withPort q st r s) = runToEnd fin phs s := by
  induction phs generalizing s with
  | nil => cases fin <;> rfl
  | cons ph rest ih =>
    have hturn : currentTurn (withPort q st r s) = currentTurn s := rfl
    cases h : (currentTurn s).fault with
    | some e => rw [runToEnd_fault h, runToEnd_fault (hturn ▸ h), frame_withPort, issue_withPort]; rfl
    | none => rw [runToEnd_ok h, runToEnd_ok (hturn ▸ h), afterPhase_withPort, ih]

end

/-- The sequencer's run of an expansion to its end. -/
theorem runPhases_eq_runToEnd {i : Instr} {pl : Plan} (phs : List Phase) {k : Nat} (s : State)
    (hlen : k + phs.length = pl.phases.length) (hne : phs ≠ []) :
    runPhases i pl k phs s = runToEnd pl.finish phs s := by
  induction phs generalizing k s with
  | nil => exact absurd rfl hne
  | cons ph rest ih =>
    rw [List.length_cons] at hlen
    rcases advance_cases i pl k ph s with ⟨e, he, _⟩ | ⟨h0, hk, _⟩ | ⟨h0, hk, _⟩
    · rw [runPhases_fault i pl k ph rest s e he, runToEnd_fault he]
    · rw [runPhases_ok i pl k ph rest s h0 hk, ih _ (by omega) (rest_ne_nil hlen hk), runToEnd_ok h0]
      exact runToEnd_withPort (.busy i (k + 1)) _ _ (afterPhase ph s) pl.finish rest
    · have hnil : rest = [] := List.eq_nil_of_length_eq_zero (by omega)
      rw [runPhases_last i pl k ph rest s h0 hk, runToEnd_ok h0, hnil]; rfl

/-- An operation with bus traffic, whatever the LINK answers. -/
theorem exec_eq_runToEnd {i : Instr} {pl : Plan} (hs : s.seq = .idle) (hbus : isPure i = false)
    (hpl : planOf s.params i = .ok pl) : exec i s = .next (runToEnd pl.finish pl.phases s) := by
  rw [exec_of_bus i s hbus, perform_ok hs hpl,
    runPhases_eq_runToEnd _ _ (Nat.zero_add _) (phases_ne_nil hpl hbus)]
  exact congrArg Host.Outcome.next (runToEnd_withPort (.busy i 0) _ _ s pl.finish pl.phases)

/-! ### A run that begins as another does -/

/-- Behind transactions all answered with `Ok` the run goes on. -/
theorem runToEnd_append_of_ok (fin : Finish) {phs : List Phase} (qhs : List Phase) (h : linkOk phs.length s) :
    runToEnd fin (phs ++ qhs) s = runToEnd fin qhs (afterPhases phs s) := by
  induction phs generalizing s with
  | nil => rfl
  | cons ph rest ih =>
    obtain ⟨h0, hrest⟩ := (linkOk_succ _ _).1 h
    rw [List.cons_append, runToEnd_ok h0, ih ((linkOk_afterPhase ..).2 hrest), afterPhases]

/-- With a fault among its first transactions a run ends there, however it would have gone on. -/
theorem runToEnd_append_of_fault (fin fin' : Finish) {phs : List Phase} (qhs : List Phase)
    (h : ¬ linkOk phs.length s) : runToEnd fin (phs ++ qhs) s = runToEnd fin' phs s := by
  induction phs generalizing s with
  | nil => exact absurd (fun _ hk => absurd hk (Nat.not_lt_zero _)) h
  | cons ph rest ih =>
    cases h0 : (currentTurn s).fault with
    | some e => rw [List.cons_append, runToEnd_fault h0, runToEnd_fault h0]
    | none =>
      have hrest : ¬ linkOk rest.length (afterPhase ph s) := fun hr =>
        h ((linkOk_succ _ _).2 ⟨h0, (linkOk_afterPhase ..).1 hr⟩)
      rw [List.cons_append, runToEnd_ok h0, runToEnd_ok h0, ih hrest]

/-- An operation whose transaction `k` is the first that fails aborts there (R120, R121). -/
theorem exec_firstFault {i : Instr} {pl : Plan} {k : Nat} {e : TransportError} (hs : s.seq = .idle)
    (hbus : isPure i = false) (hpl : planOf s.params i = .ok pl) (hk : k < pl.phases.length) (hok : linkOk k s)
    (hfault : (turnAt k s).fault = some e) :
    let u := afterPhases (pl.phases.take k) s
    exec i s = .next (raiseTransportFault e (issue (pl.phases[k].frame u) u)) := by
  have hlen : (pl.phases.take k).length = k := List.length_take_of_le hk.le
  have hturn : currentTurn (afterPhases (pl.phases.take k) s) = turnAt k s :=
    (turnAt_afterPhases (pl.phases.take k) 0 s).trans (by rw [hlen, Nat.add_zero])
  have hsplit : pl.phases = pl.phases.take k ++ pl.phases[k] :: pl.phases.drop (k + 1) := by
    rw [← List.drop_eq_getElem_cons hk, List.take_append_drop]
  have hrun := runToEnd_append_of_ok pl.finish (pl.phases[k] :: pl.phases.drop (k + 1))
    (phs := pl.phases.take k) (s := s) (by rwa [hlen])
  rw [← hsplit, runToEnd_fault (by rw [hturn, hfault])] at hrun
  rw [exec_eq_runToEnd hs hbus hpl, hrun]

/-! ### Setters -/

/-- A setter is an operation with bus traffic. -/
theorem isPure_setter {p : Config.Params} {i : Instr} {fc : Field × Byte} (h : setterTarget p i = some fc) :
    isPure i = false :=
  isPure_eq_false (p := p) (by rw [opLength_setter h]; decide)

/-- `RESERVED0` is the field of no setter (R107, D27). -/
theorem setterTarget_ne_reserved0 {p : Config.Params} {i : Instr} {f : Field} {c : Byte}
    (h : setterTarget p i = some (f, c)) : f ≠ .reserved0 := by
  cases i
  case setFieldRaw g d =>
    simp only [setterTarget, Option.ite_none_right_eq_some, Option.some.injEq, Prod.mk.injEq] at h
    obtain ⟨⟨_, hg, _⟩, rfl, _⟩ := h
    exact hg
  case setMux | setGain | setPgaBypass | setDataRate | setOperatingMode | setConversionMode | setTempSensorMode
      | setBurnoutCurrent | setVrefSelect | setFirFilter | setLowSideSwitch | setIdacCurrent | setIdac1Route
      | setIdac2Route | setDrdyMode =>
    obtain ⟨_, _, heq⟩ := Option.map_eq_some_iff.1 h
    cases heq
    exact Field.noConfusion
  all_goals cases h

/-- Where it is exposed, `SET_FIELD_RAW` takes the field and code of every setter. -/
theorem setterTarget_raw {p : Config.Params} {i : Instr} {f : Field} {c : Byte} (he : p.exposePrimitives = true)
    (h : setterTarget p i = some (f, c)) : setterTarget p (.setFieldRaw f c) = some (f, c) :=
  if_pos ⟨he, setterTarget_ne_reserved0 h, setterTarget_fits h⟩

/-- Two setters of one field and code do the same, whatever the LINK answers. -/
theorem exec_setter_congr {i j : Instr} {fc : Field × Byte} (hi : setterTarget s.params i = some fc)
    (hj : setterTarget s.params j = some fc) : exec i s = exec j s := by
  have hpi := isPure_setter hi
  have hpj := isPure_setter hj
  cases hs : s.seq with
  | idle => rw [exec_eq_runToEnd hs hpi (planOf_setter hi), exec_eq_runToEnd hs hpj (planOf_setter hj)]
  | busy op k => rw [exec_of_bus i s hpi, exec_of_bus j s hpj, perform_busy hs, perform_busy hs]

/-! ### `READ_CHANNEL` -/

/-- The expansion of `READ_CHANNEL` is that of `SET_MUX` and that of `READ_SINGLE_SHOT` behind it (R110). -/
theorem planOf_readChannel {p : Config.Params} {m : Mux} {c : Byte} (h : enumEncode p (.mux m) = some c) :
    planOf p (.readChannel m) = .ok ⟨readModifyWrite .mux c ++ singleShotPhases, .result⟩ := by
  simp [planOf, planReadChannel, checkedVariant_ok h]

end Sys2Proof.Machine

namespace Sys2Proof.Proofs

open Sys2Proof.Machine Sys2Proof.Claims

/-- Settles O32: both are the read-modify-write of one field and code. -/
theorem rawSetterEqualsTypedSetter : Obligations.RawSetterEqualsTypedSetter :=
  fun _ _ _ _ he hi => exec_setter_congr hi (setterTarget_raw he hi)

/-- Settles O38: the run of `READ_CHANNEL` is that of `SET_MUX` where a transaction of it fails, and goes on with that
of `READ_SINGLE_SHOT` otherwise. -/
theorem readChannelIsSetMuxThenReadSingleShot : Obligations.ReadChannelIsSetMuxThenReadSingleShot := by
  intro s t m h
  obtain ⟨hs, ⟨⟨⟩, _⟩ | ⟨hbus, pl, hpl, _⟩⟩ := exec_next_cases h
  obtain ⟨c, hc, rfl⟩ := typedSetter_inv hpl
  rw [exec_eq_runToEnd hs rfl (planOf_readChannel hc)]
  by_cases hok : linkOk (readModifyWrite .mux c).length s
  · rw [exec_allOk hs hbus hpl hok] at h
    cases h
    refine ⟨fun _ => ?_, fun hne => absurd (complete_status ..) hne⟩
    rw [exec_eq_runToEnd (complete_seq ..) rfl rfl, runToEnd_append_of_ok _ _ hok]
    exact congrArg Host.Outcome.next (runToEnd_withPort .idle .ok _ _ .result singleShotPhases).symm
  · refine ⟨fun hstatus => absurd (linkOk_of_exec_status h hbus hpl hstatus) hok, fun _ => ?_⟩
    rw [runToEnd_append_of_fault .result .nothing _ hok, ← h, exec_eq_runToEnd hs hbus hpl]
    rfl

end Sys2Proof.Proofs
end

section
/-! Completed operations of the device controller, transaction by transaction: the state behind the `n`-th of them when
the LINK answers `Ok`, said in the environment's choices as the operation found them. -/

namespace Sys2Proof.Machine

open Sys2Proof.Claims

/-! ### The choices to come behind `n` transactions -/

/-- The state `u`, with the environment's choices to come those that `s` has behind `n` transactions. -/
def withTurnsOf (n : Nat) (s u : State) : State :=
  { u with params := s.params, script := (spent n s).script, draws := (spent n s).draws }

theorem spent_succ (n : Nat) (s : State) : spent (n + 1) s = consumeTurn (spent n s) := by
  induction n generalizing s with
  | zero => rfl
  | succ n ih => exact ih (consumeTurn s)

/-- Using up choices changes the script and the counter only. -/
theorem withTurnsOf_self (n : Nat) (s : State) : withTurnsOf n s s = spent n s := by
  induction n with
  | zero => rfl
  | succ n ih => rw [spent_succ, ← ih, consumeTurn_eq, withTurnsOf, spent_succ, ← ih, consumeTurn_eq]; rfl

@[simp] theorem spent_params (n : Nat) (s : State) : (spent n s).params = s.params := by
  rw [← withTurnsOf_self]; rfl

theorem consumeTurn_withTurnsOf (n : Nat) (s u : State) :
    consumeTurn (withTurnsOf n s u) = withTurnsOf (n + 1) s u := by
  rw [withTurnsOf, withTurnsOf, spent_succ, consumeTurn_eq, consumeTurn_eq]

section
variable (n : Nat) (s u : State)

theorem turnAt_withTurnsOf : turnAt 0 (withTurnsOf n s u) = turnAt n s :=
  currentTurn_congr rfl rfl (spent_params n s).symm

theorem foundCfg_withTurnsOf (cfg : Regs) : foundCfg 0 (withTurnsOf n s u) cfg = foundCfg n s cfg := by
  rw [foundCfg, turnAt_withTurnsOf]; rfl

theorem linkReads_withTurnsOf (cfg : Regs) (a : RegAddr) :
    linkReads 0 (withTurnsOf n s u) cfg a = linkReads n s cfg a := by
  rw [linkReads, turnAt_withTurnsOf]; rfl

theorem linkWrites_withTurnsOf (cfg : Regs) (a : RegAddr) (v : Byte) :
    linkWrites 0 (withTurnsOf n s u) cfg a v = linkWrites n s cfg a v := by
  rw [linkWrites, turnAt_withTurnsOf]; rfl

theorem linkResets_withTurnsOf : linkResets 0 (withTurnsOf n s u) = linkResets n s := by
  rw [linkResets, turnAt_withTurnsOf]; rfl

theorem linkSample_withTurnsOf (h : u.samples = s.samples) :
    linkSample 0 (withTurnsOf n s u) = linkSample n s := by
  rw [linkSample, turnAt_withTurnsOf, linkSample, ← h]; rfl

end

/-! ### One transaction answered with `Ok`, from any state and as the `n`-th to come -/

/-- The state behind a read of the dump, answered with `Ok` (R52, R111). -/
theorem afterPhase_readDump {s : State} (hok : (currentTurn s).fault = none) (a : RegAddr) :
    afterPhase (.readDump a) s =
      let found := foundCfg 0 s s.cfg
      let d := linkReads 0 s found a
      { consumeTurn s with dump := writeReg s.dump a d, cfg := found, trace := s.trace ++ [readEntry a d] } := by
  simp only [afterPhase, Phase.frame, issue_ok rfl hok, replyTo_ok rfl hok, okReply_rreg, afterOk, consumeTurn_eq]
  rfl

/-- The state behind the reset command with the trailing wait, answered with `Ok` (R53, R108). -/
theorem afterPhase_trailingReset {s : State} (hok : (currentTurn s).fault = none) :
    afterPhase (.command (.reset true)) s =
      { consumeTurn s with cfg := linkResets 0 s, trace := s.trace ++ [trailingResetEntry] } := by
  rw [afterPhase_command hok, okReply_reset, consumeTurn_eq]
  rfl

/-- The state behind the post-reset wait, answered with `Ok` (R54, R108). -/
theorem afterPhase_postResetWait {s : State} (hok : (currentTurn s).fault = none) :
    afterPhase (.command .postResetWait) s =
      { consumeTurn s with cfg := foundCfg 0 s s.cfg, trace := s.trace ++ [postResetWaitEntry] } := by
  rw [afterPhase_command hok, okReply_postResetWait, consumeTurn_eq]
  rfl

section
variable {n : Nat} {s : State} (hok : (turnAt n s).fault = none) (u : State)
include hok

theorem fault_withTurnsOf : (currentTurn (withTurnsOf n s u)).fault = none :=
  (congrArg Turn.fault (turnAt_withTurnsOf n s u)).trans hok

theorem wreg_withTurnsOf (a : RegAddr) (v : Byte) :
    afterPhase (.command (.wreg a v)) (withTurnsOf n s u) = withTurnsOf (n + 1) s
      { u with cfg := linkWrites n s (foundCfg n s u.cfg) a v, trace := u.trace ++ [writeEntry a v] } := by
  rw [afterPhase_wreg (fault_withTurnsOf hok u), consumeTurn_withTurnsOf, linkWrites_withTurnsOf,
    foundCfg_withTurnsOf]
  rfl

theorem writeBack_withTurnsOf (a : RegAddr) :
    afterPhase (.writeBack a) (withTurnsOf n s u) = withTurnsOf (n + 1) s
      { u with cfg := linkWrites n s (foundCfg n s u.cfg) a u.tmp, trace := u.trace ++ [writeEntry a u.tmp] } := by
  rw [Proofs.afterPhase_writeBack a (fault_withTurnsOf hok u), consumeTurn_withTurnsOf, linkWrites_withTurnsOf,
    foundCfg_withTurnsOf]
  rfl

theorem reset_withTurnsOf :
    afterPhase (.command (.reset false)) (withTurnsOf n s u) = withTurnsOf (n + 1) s
      { u with cfg := linkResets n s, trace := u.trace ++ [resetEntry] } := by
  rw [afterPhase_reset (fault_withTurnsOf hok u), consumeTurn_withTurnsOf, linkResets_withTurnsOf]
  rfl

theorem trailingReset_withTurnsOf :
    afterPhase (.command (.reset true)) (withTurnsOf n s u) = withTurnsOf (n + 1) s
      { u with cfg := linkResets n s, trace := u.trace ++ [trailingResetEntry] } := by
  rw [afterPhase_trailingReset (fault_withTurnsOf hok u), consumeTurn_withTurnsOf, linkResets_withTurnsOf]
  rfl

theorem postResetWait_withTurnsOf :
    afterPhase (.command .postResetWait) (withTurnsOf n s u) = withTurnsOf (n + 1) s
      { u with cfg := foundCfg n s u.cfg, trace := u.trace ++ [postResetWaitEntry] } := by
  rw [afterPhase_postResetWait (fault_withTurnsOf hok u), consumeTurn_withTurnsOf, foundCfg_withTurnsOf]
  rfl

theorem start_withTurnsOf :
    afterPhase (.command .start) (withTurnsOf n s u) = withTurnsOf (n + 1) s
      { u with cfg := foundCfg n s u.cfg, trace := u.trace ++ [startEntry] } := by
  rw [afterPhase_start (fault_withTurnsOf hok u), consumeTurn_withTurnsOf, foundCfg_withTurnsOf]
  rfl

theorem readModify_withTurnsOf (f : Field) (c : Byte) :
    afterPhase (.readModify f c) (withTurnsOf n s u) = withTurnsOf (n + 1) s
      (let found := foundCfg n s u.cfg
       let d := linkReads n s found (fieldReg f)
       { u with tmp := encodeField f d c, cfg := found, trace := u.trace ++ [readEntry (fieldReg f) d] }) := by
  simp only [Proofs.afterPhase_readModify f c (fault_withTurnsOf hok u), consumeTurn_withTurnsOf,
    linkReads_withTurnsOf, foundCfg_withTurnsOf]
  rfl

theorem readDump_withTurnsOf (a : RegAddr) :
    afterPhase (.readDump a) (withTurnsOf n s u) = withTurnsOf (n + 1) s
      (let found := foundCfg n s u.cfg
       let d := linkReads n s found a
       { u with dump := writeReg u.dump a d, cfg := found, trace := u.trace ++ [readEntry a d] }) := by
  simp only [afterPhase_readDump (fault_withTurnsOf hok u), consumeTurn_withTurnsOf, linkReads_withTurnsOf,
    foundCfg_withTurnsOf]
  rfl

theorem readSample_withTurnsOf (h : u.samples = s.samples) :
    afterPhase .readSample (withTurnsOf n s u) = withTurnsOf (n + 1) s
      (let x := (linkSample n s).1
       { u with
        rxbuf := x, cfg := foundCfg n s u.cfg, samples := (linkSample n s).2
        trace := u.trace ++ [sampleEntry x] }) := by
  simp only [afterPhase_readSample (fault_withTurnsOf hok u), consumeTurn_withTurnsOf, foundCfg_withTurnsOf,
    linkSample_withTurnsOf n s u h]
  rfl

end

/-! ### Runs of transactions that several expansions share -/

/-- The state behind the two transactions of a conversion read, answered with `Ok` (R109). -/
theorem singleShot_withTurnsOf {n : Nat} {s u : State} (h0 : (turnAt n s).fault = none)
    (h1 : (turnAt (n + 1) s).fault = none) (hu : u.samples = s.samples) :
    afterPhases singleShotPhases (withTurnsOf n s u) = withTurnsOf (n + 2) s
      (let x := (linkSample (n + 1) s).1
       { u with
        rxbuf := x, cfg := foundCfg (n + 1) s (foundCfg n s u.cfg), samples := (linkSample (n + 1) s).2
        trace := u.trace ++ [startEntry, sampleEntry x] }) := by
  simp only [singleShotPhases, afterPhases]
  rw [start_withTurnsOf h0, readSample_withTurnsOf h1]
  · simp only [List.append_assoc]; rfl
  · exact hu

/-- `CFG` behind the writes of the default bytes, the `n`-th coming transaction the first of them. -/
def afterDefaultWrites (n : Nat) (s : State) (cfg : Regs) : Regs :=
  linkWrites (n + 3) s (foundCfg (n + 3) s (linkWrites (n + 2) s (foundCfg (n + 2) s
    (linkWrites (n + 1) s (foundCfg (n + 1) s (linkWrites n s (foundCfg n s cfg) 0 0x00)) 1 0x04)) 2 0x10)) 3 0x00

/-- The state behind the writes of the default bytes, answered with `Ok` (R108). -/
theorem defaultWrites_withTurnsOf {n : Nat} {s : State} (hok : ∀ j < 4, (turnAt (n + j) s).fault = none)
    (u : State) :
    afterPhases defaultWrites (withTurnsOf n s u) = withTurnsOf (n + 4) s
      { u with
        cfg := afterDefaultWrites n s u.cfg
        trace := u.trace ++ [writeEntry 0 0x00, writeEntry 1 0x04, writeEntry 2 0x10, writeEntry 3 0x00] } := by
  simp only [defaultWrites, afterPhases]
  rw [wreg_withTurnsOf (n := n) (hok 0 (by decide)), wreg_withTurnsOf (hok 1 (by decide)),
    wreg_withTurnsOf (hok 2 (by decide)), wreg_withTurnsOf (hok 3 (by decide))]
  simp only [List.append_assoc]
  rfl

/-! ### Completion -/

/-- A completion, `SEQ` apart, has its effect and writes `STATUS` and the response. -/
theorem complete_eq {s : State} (hs : s.seq = .idle) (fin : Finish) :
    complete fin s = { finishEffect fin s with
      status := .ok, response := some (.ok (finishValue fin (finishEffect fin s))) } := by
  have htwice : finishEffect fin (finishEffect fin s) = finishEffect fin s := by cases fin <;> rfl
  have hseq : (finishEffect fin s).seq = .idle := (finishEffect_seq fin s).trans hs
  rw [← complete_of_idle hseq htwice]
  cases fin <;> rfl

/-- An operation all of whose transactions are answered with `Ok` completes in the state they lead to. -/
theorem exec_of_afterPhases {i : Instr} {pl : Plan} {s u : State} {n : Nat} (hs : s.seq = .idle)
    (hbus : isPure i = false) (hpl : planOf s.params i = .ok pl) (hok : linkOk pl.phases.length s)
    (hu : afterPhases pl.phases (withTurnsOf 0 s s) = withTurnsOf n s u) (hseq : u.seq = .idle) :
    exec i s = .next (let t := finishEffect pl.finish (withTurnsOf n s u)
      { t with status := .ok, response := some (.ok (finishValue pl.finish t)) }) := by
  have hidle : (withTurnsOf n s u).seq = .idle := hseq
  rw [exec_allOk hs hbus hpl hok, ← complete_eq hidle, ← hu]
  rfl

end Sys2Proof.Machine

namespace Sys2Proof.Proofs

open Sys2Proof.Machine Sys2Proof.Claims

/-- Settles O36: start, then the sample. -/
theorem readSingleShotDecodesTheSample : Obligations.ReadSingleShotDecodesTheSample := by
  intro s hs hok
  have hrun := singleShot_withTurnsOf (u := s) (hok 0 (by decide)) (hok 1 (by decide)) rfl
  refine ⟨_, _, _, ?_, fun _ => ⟨rfl, rfl, rfl⟩⟩
  rw [exec_of_afterPhases (i := .readSingleShot) hs rfl rfl hok hrun hs, ← withTurnsOf_self, ← decodeSample_eq]
  rfl

/-- `ENCODE MUX` keeps the low half of register 0 and puts the code into the high half (R62, R71). -/
theorem encodeField_mux (d c : Byte) : encodeField .mux d c = (d &&& 0x0F) ||| (c <<< 4) := rfl

/-- Settles O37: the read-modify-write of the mux field, then start and the sample. -/
theorem readChannelSetsTheMuxThenSamples : Obligations.ReadChannelSetsTheMuxThenSamples := by
  intro s m c hc hs hok
  have hrun := readModify_withTurnsOf (hok 0 (by decide)) s .mux c
  have hrun1 := (congrArg (afterPhase (.writeBack 0)) hrun).trans (writeBack_withTurnsOf (hok 1 (by decide)) _ 0)
  have hrun3 := (congrArg (afterPhases singleShotPhases) hrun1).trans
    (singleShot_withTurnsOf (hok 2 (by decide)) (hok 3 (by decide)) rfl)
  refine ⟨_, _, _, _, ?_, fun _ => ⟨rfl, rfl, rfl, rfl⟩⟩
  rw [exec_of_afterPhases hs rfl (planOf_readChannel hc) hok hrun3 hs, ← withTurnsOf_self, ← decodeSample_eq]
  simp only [encodeField_mux, List.append_assoc]
  rfl

/-- Settles O39: four reads, each into its own byte of the dump. -/
theorem dumpRegistersReadsInAddressOrder : Obligations.DumpRegistersReadsInAddressOrder := by
  intro s hs hok
  have hrun := readDump_withTurnsOf (hok 0 (by decide)) s 0
  have hrun1 := (congrArg (afterPhase (.readDump 1)) hrun).trans (readDump_withTurnsOf (hok 1 (by decide)) _ 1)
  have hrun2 := (congrArg (afterPhase (.readDump 2)) hrun1).trans (readDump_withTurnsOf (hok 2 (by decide)) _ 2)
  have hrun3 := (congrArg (afterPhase (.readDump 3)) hrun2).trans (readDump_withTurnsOf (hok 3 (by decide)) _ 3)
  refine ⟨⟨_, _, _, _⟩, _, ?_, fun _ => ⟨rfl, rfl⟩⟩
  rw [exec_of_afterPhases (i := .dumpRegisters) hs rfl rfl hok hrun3 hs, ← withTurnsOf_self]
  simp only [List.append_assoc]
  rfl

/-- The expansion of `BEGIN` under each placement of the wait (R108). -/
theorem planOf_beginInit {p : Config.Params} {pm : Config.Placement} (h : p.placement = pm) :
    planOf p .beginInit = .ok ⟨resetPhases pm ++ defaultWrites, .begun⟩ :=
  h ▸ rfl

/-- Settles O33: the reset and its wait under each placement, then the four writes. -/
theorem beginResetsWaitsAndWritesDefaults : Obligations.BeginResetsWaitsAndWritesDefaults := by
  refine fun s hs => ⟨fun hp hok => ?_, fun hp hok => ?_⟩
  · have hreset := reset_withTurnsOf (hok 0 (by decide)) s
    have hwait := (congrArg (afterPhase (.command .postResetWait)) hreset).trans
      (postResetWait_withTurnsOf (hok 1 (by decide)) _)
    have hrun := (congrArg (afterPhases defaultWrites) hwait).trans
      (defaultWrites_withTurnsOf (n := 2) (fun j hj => hok _ (Nat.add_lt_add_left hj 2)) _)
    refine ⟨_, ?_, fun _ => rfl⟩
    rw [exec_of_afterPhases hs rfl (planOf_beginInit hp) hok hrun hs, ← withTurnsOf_self]
    simp only [List.append_assoc]
    rfl
  · have hreset := trailingReset_withTurnsOf (hok 0 (by decide)) s
    have hrun := (congrArg (afterPhases defaultWrites) hreset).trans
      (defaultWrites_withTurnsOf (n := 1) (fun j hj => hok _ (by omega)) _)
    refine ⟨_, ?_, fun _ => rfl⟩
    rw [exec_of_afterPhases hs rfl (planOf_beginInit hp) hok hrun hs, ← withTurnsOf_self]
    simp only [List.append_assoc]
    rfl

end Sys2Proof.Proofs
end

section
/-! `BEGIN` under the reference responder when one of its transactions fails: what each register then holds. -/

namespace Sys2Proof.Machine

open Sys2Proof.Claims

/-! ### The far end behind a transaction -/

/-- `CFG` behind a transaction that the reference responder answers with `Ok` (R51 to R55). -/
def respondedCfg (p : Config.Params) (cfg : Regs) : Frame → Regs
  | .wreg a v => writeReg cfg a v
  | .reset _ => p.devReset
  | .rreg _ | .start | .sread | .postResetWait => cfg

theorem okReply_cfg_responder {p : Config.Params} (hl : p.link = .responder) (t : Turn) (f : Frame) (cfg : Regs)
    (samples : List Sample) :
    (okReply p t f cfg samples).cfg = respondedCfg p (afterExternal p t cfg) f := by
  cases f
  case wreg => rw [okReply_wreg, hl]; rfl
  case rreg => rw [okReply_rreg]; rfl
  case reset => rw [okReply_reset, hl]; rfl
  case start => rw [okReply_start]; rfl
  case sread => rw [okReply_sread]; rfl
  case postResetWait => rw [okReply_postResetWait]; rfl

variable {s : State}

/-- Behind one transaction EXTERNAL is as quiet as it was one transaction later before it. -/
theorem quietAt_afterPhase (ph : Phase) (k : Nat) (s : State) : quietAt k (afterPhase ph s) ↔ quietAt (k + 1) s := by
  rw [quietAt, quietAt, afterPhase_params, turnAt_afterPhase]

theorem quietAt_afterPhases (phs : List Phase) (k : Nat) (s : State) :
    quietAt k (afterPhases phs s) ↔ quietAt (phs.length + k) s := by
  rw [quietAt, quietAt, afterPhases_params, turnAt_afterPhases]

/-- Commands answered with `Ok` by the responder, with no step of EXTERNAL, change `CFG` one after another. -/
theorem afterPhases_commands_cfg (fs : List Frame) {s : State} (hl : s.params.link = .responder)
    (hok : linkOk fs.length s) (hq : ∀ k < fs.length, quietAt k s) :
    (afterPhases (fs.map .command) s).cfg = fs.foldl (respondedCfg s.params) s.cfg := by
  induction fs generalizing s with
  | nil => rfl
  | cons f fs ih =>
    obtain ⟨h0, hrest⟩ := (linkOk_succ _ _).1 hok
    have hquiet : afterExternal s.params (currentTurn s) s.cfg = s.cfg :=
      Proofs.foundCfg_of_quiet (hq 0 (Nat.succ_pos _)) s.cfg
    have hcfg : (afterPhase (.command f) s).cfg = respondedCfg s.params s.cfg f := by
      rw [afterPhase_cfg, replyTo_ok rfl h0, okReply_cfg_responder hl, hquiet]; rfl
    rw [List.map_cons, afterPhases, ih (by simpa using hl) ((linkOk_afterPhase ..).2 hrest) fun k hk =>
      (quietAt_afterPhase ..).2 (hq (k + 1) (Nat.succ_lt_succ hk)), hcfg, afterPhase_params]
    rfl

/-- The LINK's answer to a transaction that fails (R122). -/
theorem replyTo_fault {e : TransportError} (h : (currentTurn s).fault = some e) (f : Frame) :
    replyTo f s = faultedReply s.params (currentTurn s) f (foundCfg 0 s s.cfg) s.samples e := by
  rw [replyTo, linkReply, h]; rfl

/-- A faulted reset leaves each register its old byte or `DEV_RESET` (R122). -/
theorem readReg_faultedReset (p : Config.Params) (t : Turn) (cfg : Regs) (a : RegAddr) :
    readReg (faultedReset p t cfg) a = readReg cfg a ∨ readReg (faultedReset p t cfg) a = readReg p.devReset a := by
  have hread : readReg (faultedReset p t cfg) a =
      if t.kept.contains a then readReg cfg a else readReg p.devReset a := by
    rcases regAddr_cases a with rfl | rfl | rfl | rfl <;> rfl
  rw [hread]
  split
  · exact .inl rfl
  · exact .inr rfl

/-! ### The transactions of `BEGIN` -/

/-- The transactions of `BEGIN`, each a command (R108). -/
def beginFrames (pm : Config.Placement) : List Frame :=
  (match pm with
    | .ownTransaction => [.reset false, .postResetWait]
    | .trailing => [.reset true]) ++ [.wreg 0 0x00, .wreg 1 0x04, .wreg 2 0x10, .wreg 3 0x00]

theorem beginPhases_eq (pm : Config.Placement) :
    resetPhases pm ++ defaultWrites = (beginFrames pm).map .command := by
  cases pm <;> rfl

/-- The step of `BEGIN` that writes the register at `a` (R108). -/
def beginStepOf (pm : Config.Placement) (a : RegAddr) : Nat := if pm = .trailing then a.toNat + 1 else a.toNat + 2

theorem beginStepOf_injective {pm : Config.Placement} {a b : RegAddr} (h : beginStepOf pm a = beginStepOf pm b) :
    a = b := by
  apply BitVec.eq_of_toNat_eq
  unfold beginStepOf at h
  split at h <;> omega

/-- The reset comes first, then the wait where it is a transaction of its own, then the writes in address order. -/
theorem beginFrames_cases {pm : Config.Placement} {k : Nat} (hk : k < (beginFrames pm).length) :
    (k = 0 ∧ ∃ b, (beginFrames pm)[k] = .reset b) ∨
    (0 < k ∧ (∀ a, k < beginStepOf pm a) ∧ (beginFrames pm)[k] = .postResetWait) ∨
    (0 < k ∧ ∃ a v, k = beginStepOf pm a ∧ (beginFrames pm)[k] = .wreg a v) := by
  cases pm
  case ownTransaction =>
    have hk : k < 6 := hk
    interval_cases k
    · exact .inl ⟨rfl, _, rfl⟩
    · exact .inr (.inl ⟨by decide, by decide, rfl⟩)
    all_goals exact .inr (.inr ⟨by decide, _, _, rfl, rfl⟩)
  case trailing =>
    have hk : k < 5 := hk
    interval_cases k
    · exact .inl ⟨rfl, _, rfl⟩
    all_goals exact .inr (.inr ⟨by decide, _, _, rfl, rfl⟩)

/-- Behind the first `k` transactions of `BEGIN`, the reset among them, the registers written hold their defaults and
the others what the reset left (R108). -/
theorem readReg_beginFrames_take {pm : Config.Placement} {k : Nat} (hpos : 0 < k)
    (hk : k < (beginFrames pm).length) (p : Config.Params) (cfg : Regs) (a : RegAddr) :
    readReg (((beginFrames pm).take k).foldl (respondedCfg p) cfg) a =
      if beginStepOf pm a < k then readReg Config.defaultBytes a else readReg p.devReset a := by
  cases pm
  case ownTransaction =>
    have hk : k < 6 := hk
    rcases regAddr_cases a with rfl | rfl | rfl | rfl <;> interval_cases k <;> rfl
  case trailing =>
    have hk : k < 5 := hk
    rcases regAddr_cases a with rfl | rfl | rfl | rfl <;> interval_cases k <;> rfl

/-! ### `BEGIN` at its first fault -/

theorem afterPhases_life (phs : List Phase) (s : State) : (afterPhases phs s).life = s.life := by
  induction phs generalizing s with
  | nil => rfl
  | cons ph rest ih => rw [afterPhases, ih, afterPhase_life]

theorem planOf_beginInit_frames (p : Config.Params) :
    planOf p .beginInit = .ok ⟨(beginFrames p.placement).map .command, .begun⟩ := by
  rw [← beginPhases_eq]; rfl

theorem beginFrames_length (p : Config.Params) : (beginFrames p.placement).length = opLength p .beginInit := by
  simpa using plan_length_eq (planOf_beginInit_frames p)

/-- The state behind the first `k` transactions of `BEGIN`, all answered with `Ok`, `SEQ` apart. -/
def behindBegin (k : Nat) (s : State) : State :=
  afterPhases (((beginFrames s.params.placement).take k).map .command) s

section
variable {k : Nat} (hk : k < (beginFrames s.params.placement).length)
include hk

theorem beginTake_length : (((beginFrames s.params.placement).take k).map Phase.command).length = k := by
  rw [List.length_map, List.length_take_of_le hk.le]

theorem turnAt_behindBegin : turnAt 0 (behindBegin k s) = turnAt k s := by
  rw [behindBegin, turnAt_afterPhases, beginTake_length hk]; rfl

theorem quietAt_behindBegin : quietAt 0 (behindBegin k s) ↔ quietAt k s := by
  rw [behindBegin, quietAt_afterPhases, beginTake_length hk]; rfl

theorem behindBegin_trace_length (hok : linkOk k s) :
    (behindBegin k s).trace.length = s.trace.length + k := by
  obtain ⟨new, htrace, hnew, _⟩ := afterPhases_trace (s := s) (by rwa [beginTake_length hk])
  rw [behindBegin, htrace, List.length_append, hnew, beginTake_length hk]

/-- A `BEGIN` whose transaction `k` is the first that fails aborts there (R108, R121). -/
theorem exec_beginInit_firstFault {e : TransportError} (hs : s.seq = .idle) (hok : linkOk k s)
    (hfault : (turnAt k s).fault = some e) :
    exec .beginInit s =
      .next (raiseTransportFault e (issue (beginFrames s.params.placement)[k] (behindBegin k s))) := by
  rw [exec_firstFault hs rfl (planOf_beginInit_frames s.params) (by simpa using hk) hok hfault, behindBegin,
    List.map_take]
  simp only [List.getElem_map, Phase.frame]

/-- The far end that a failed transaction of `BEGIN` leaves under the responder, EXTERNAL quiet (R122). -/
theorem issue_behindBegin_cfg {e : TransportError} (hl : s.params.link = .responder) (hok : linkOk k s)
    (hfault : (turnAt k s).fault = some e) (hq : ∀ j ≤ k, quietAt j s) (f : Frame) :
    (issue f (behindBegin k s)).cfg =
      (faultedReply s.params (turnAt k s) f
        (((beginFrames s.params.placement).take k).foldl (respondedCfg s.params) s.cfg)
        (behindBegin k s).samples e).cfg := by
  have hturn : currentTurn (behindBegin k s) = turnAt k s := turnAt_behindBegin hk
  have hquiet := (quietAt_behindBegin hk).2 (hq k le_rfl)
  have hlen : ((beginFrames s.params.placement).take k).length = k := List.length_take_of_le hk.le
  have hcfg : (behindBegin k s).cfg = _ :=
    afterPhases_commands_cfg ((beginFrames s.params.placement).take k) hl (by rwa [hlen]) fun j hj => hq j (by omega)
  have hparams : (behindBegin k s).params = s.params := afterPhases_params ..
  rw [issue_cfg, replyTo_fault (by rw [hturn, hfault]), Proofs.foundCfg_of_quiet hquiet, hcfg, hturn, hparams]

end

end Sys2Proof.Machine

namespace Sys2Proof.Proofs

open Sys2Proof.Machine Sys2Proof.Claims

/-- Settles O35: the transactions before the failed one have written what the responder stores, and the failed one
changes at most its own register. -/
theorem beginFaultLeavesRegistersPartlyInitialised : Obligations.BeginFaultLeavesRegistersPartlyInitialised := by
  intro s t k e hl hs hk hok hfault hq hex _ stepOf
  rw [← beginFrames_length] at hk
  rw [exec_beginInit_firstFault hk hs hok hfault] at hex
  cases hex
  refine ⟨rfl, rfl, ?_, ?_, fun a => ?_⟩
  · rw [raiseTransportFault_life, issue_life, behindBegin, afterPhases_life]
  · rw [raiseTransportFault_trace, issue_trace, List.length_append, behindBegin_trace_length hk hok]; rfl
  have hstep : stepOf a = beginStepOf s.params.placement a := rfl
  rw [raiseTransportFault_cfg, issue_behindBegin_cfg hk hl hok hfault hq, hstep]
  rcases beginFrames_cases hk with ⟨rfl, b, hf⟩ | ⟨hpos, hbefore, hf⟩ | ⟨hpos, b, v, hb, hf⟩ <;> rw [hf]
  case inl =>
    exact ⟨fun _ => readReg_faultedReset s.params (turnAt 0 s) s.cfg a, nofun, nofun, nofun⟩
  case inr.inl =>
    have hlt := hbefore a
    have hread := (readReg_beginFrames_take hpos hk s.params s.cfg a).trans (if_neg hlt.le.not_gt)
    exact ⟨by omega, by omega, fun _ _ => hread, by omega⟩
  case inr.inr =>
    by_cases hab : a = b
    · subst hab
      exact ⟨by omega, by omega, by omega, fun _ _ => readReg_writeReg_same ..⟩
    · have hne : beginStepOf s.params.placement a ≠ k := fun h => hab (beginStepOf_injective (h.trans hb))
      have hread := (readReg_writeReg_other _ _ _ (readReg (turnAt k s).far b) hab).trans
        (readReg_beginFrames_take hpos hk s.params s.cfg a)
      exact ⟨by omega, fun _ h => hread.trans (if_pos h), fun _ h => hread.trans (if_neg h.le.not_gt),
        fun _ h => absurd h hne⟩

end Sys2Proof.Proofs
end

section
/-! The sample decoder: `SDEC` as the sign extension of the three bytes, read bit by bit and as an integer. -/

namespace Sys2Proof.Machine

/-- `word32` is the bytes `b0 b1 b2 00`, first byte highest (R112). -/
theorem sampleWord_eq_append (x : Sample) : sampleWord x = (x.b0 ++ x.b1 ++ x.b2 ++ (0 : Byte) : BitVec 32) := by
  have shifts : (x.b0 ++ x.b1 ++ x.b2 ++ (0 : Byte)).setWidth 32 = sampleWord x ||| (0 : Byte).setWidth 32 :=
    BitVec.setWidth_append_append_append_eq_shiftLeft_setWidth_or
  calc sampleWord x = sampleWord x ||| (0 : Byte).setWidth 32 := BitVec.or_zero.symm
    _ = (x.b0 ++ x.b1 ++ x.b2 ++ (0 : Byte)).setWidth 32 := shifts.symm
    _ = x.b0 ++ x.b1 ++ x.b2 ++ (0 : Byte) := BitVec.setWidth_eq _

/-- The sign bit of the 24 bits is that of the first byte (R113). -/
theorem msb_sampleBytes (x : Sample) : (x.b0 ++ x.b1 ++ x.b2 : BitVec 24).msb = x.b0.getLsbD 7 := by
  rw [BitVec.msb_append, BitVec.msb_append]
  exact BitVec.msb_eq_getLsbD_last x.b0

/-- From the sign bit of the 24 up, every bit `SDEC` yields is a copy of it (R113, R114). -/
theorem decodeSample_bit_high (x : Sample) {k : Nat} (hlow : 23 ≤ k) (hhigh : k ≤ 31) :
    (decodeSample x).getLsbD k = x.b0.getLsbD 7 := by
  rw [decodeSample_eq, BitVec.getLsbD_signExtend, decide_eq_true (by omega : k < 32), Bool.true_and]
  split
  next inside =>
    obtain rfl : k = 23 := by omega
    rw [← msb_sampleBytes, BitVec.msb_eq_getLsbD_last]
  next => exact msb_sampleBytes x

/-- The low 24 bits `SDEC` yields are the bytes received (R113). -/
theorem decodeSample_setWidth (x : Sample) : (decodeSample x).setWidth 24 = (x.b0 ++ x.b1 ++ x.b2 : BitVec 24) := by
  apply BitVec.eq_of_getLsbD_eq
  intro k hk
  rw [BitVec.getLsbD_setWidth, decodeSample_eq, BitVec.getLsbD_signExtend, if_pos hk, decide_eq_true hk,
    decide_eq_true (by omega : k < 32), Bool.true_and, Bool.true_and]

/-- A negative 24-bit word is extended by setting the eight bits above it. -/
theorem signExtend_eq_or_of_msb {v : BitVec 24} (h : v.msb = true) : v.signExtend 32 = v.setWidth 32 ||| 0xFF000000 := by
  apply BitVec.eq_of_getLsbD_eq
  intro k hk
  rw [BitVec.getLsbD_signExtend, BitVec.getLsbD_or, BitVec.getLsbD_setWidth, h]
  have ones : (0xFF000000 : BitVec 32).getLsbD k = decide (24 ≤ k) := by
    revert k
    decide
  rw [ones]
  split
  next inside => simp [inside, hk]
  next outside => simp [Nat.le_of_not_lt outside, hk]

/-- The integer `SDEC` yields is the value of the 24 bits in two's complement (R114). -/
theorem decodeSample_toInt (x : Sample) : (decodeSample x).toInt = (x.b0 ++ x.b1 ++ x.b2 : BitVec 24).toInt := by
  rw [decodeSample_eq, BitVec.toInt_signExtend_of_le (by decide)]

/-- The three bytes of a 24-bit word, first byte highest (R63). -/
def sampleOfWord (v : BitVec 24) : Sample := ⟨v.extractLsb' 16 8, v.extractLsb' 8 8, v.extractLsb' 0 8⟩

theorem sampleOfWord_append (x : Sample) : sampleOfWord (x.b0 ++ x.b1 ++ x.b2) = x := by
  obtain ⟨b0, b1, b2⟩ := x
  have h0 : (b0 ++ b1 ++ b2 : BitVec 24).extractLsb' 16 8 = b0 := by
    rw [BitVec.extractLsb'_append_eq_of_le (by decide)]
    exact BitVec.extractLsb'_append_eq_left
  have h1 : (b0 ++ b1 ++ b2 : BitVec 24).extractLsb' 8 8 = b1 := by
    rw [BitVec.extractLsb'_append_eq_of_le (by decide)]
    exact BitVec.extractLsb'_append_eq_right
  rw [sampleOfWord, h0, h1, BitVec.extractLsb'_append_eq_right]

theorem sampleOfWord_bytes (v : BitVec 24) :
    ((sampleOfWord v).b0 ++ (sampleOfWord v).b1 ++ (sampleOfWord v).b2 : BitVec 24) = v := by
  have high : (sampleOfWord v).b0 ++ (sampleOfWord v).b1 = v.extractLsb' 8 16 :=
    BitVec.extractLsb'_append_extractLsb'_eq_extractLsb' rfl
  rw [high]
  exact (BitVec.extractLsb'_append_extractLsb'_eq_extractLsb' rfl).trans BitVec.extractLsb'_eq_self

/-- `SDEC` loses nothing: the bytes are recovered from what it yields (R114). -/
theorem sampleOfWord_decodeSample (x : Sample) : sampleOfWord ((decodeSample x).setWidth 24) = x := by
  rw [decodeSample_setWidth, sampleOfWord_append]

end Sys2Proof.Machine

namespace Sys2Proof.Proofs

open Sys2Proof.Machine Sys2Proof.Claims

/-- Settles O22: `SDEC` is a pure function unit, and the word it shifts is the bytes appended. -/
theorem sdecSignExtendsTheThreeBytes : Obligations.SdecSignExtendsTheThreeBytes := by
  intro s b0 b1 b2 hs he
  have shifted : decodeSample ⟨b0, b1, b2⟩ = (b0 ++ b1 ++ b2 ++ (0 : Byte) : BitVec 32).sshiftRight 8 := by
    rw [decodeSample, sampleWord_eq_append]
  rw [← shifted]
  exact ⟨exec_pure_next rfl hs he rfl, decodeSample_eq ⟨b0, b1, b2⟩⟩

/-- Settles O23: the sign bit decides between the bits above being zeros and being ones. -/
theorem sdecFormsAgree : Obligations.SdecFormsAgree := by
  intro x raw
  refine ⟨?_, decodeSample_setWidth x, fun k hlow hhigh => decodeSample_bit_high x (by omega) hhigh⟩
  rw [decodeSample_eq, ← msb_sampleBytes]
  split
  next negative => exact signExtend_eq_or_of_msb negative
  next nonnegative => exact BitVec.signExtend_eq_setWidth_of_msb_false (eq_false_of_ne_true nonnegative)

/-- Settles O24: `SDEC` keeps the integer value of the 24 bits, which determine the three bytes and are determined by
them. -/
theorem sdecRangeValueAndInjectivity : Obligations.SdecRangeValueAndInjectivity := by
  refine ⟨fun x => ⟨?_, ?_, ?_, fun k hlow hhigh => ?_⟩, fun x y h => ?_, fun z hlow hhigh => ?_⟩
  · rw [decodeSample_toInt]
    exact BitVec.le_toInt _
  · rw [decodeSample_toInt]
    exact Int.le_sub_one_of_lt BitVec.toInt_lt
  · intro raw
    rw [decodeSample_toInt, BitVec.toInt_eq_toNat_cond, rawSample_toNat]
    have half : 2 * raw < 2 ^ 24 ↔ raw < 2 ^ 23 := by omega
    exact if_congr half rfl rfl
  · rw [decodeSample_bit_high x hlow hhigh, decodeSample_bit_high x (by decide) le_rfl]
  · rw [← sampleOfWord_decodeSample x, BitVec.toInt_inj.1 h, sampleOfWord_decodeSample]
  · refine ⟨sampleOfWord (BitVec.ofInt 24 z), ?_⟩
    rw [decodeSample_toInt, sampleOfWord_bytes]
    exact BitVec.toInt_ofInt_eq_self (by decide) (by omega) (by omega)

end Sys2Proof.Proofs
end

section
/-! The layer the exceptions' obligations rest on: what a transaction that fails leaves, the choices used up before it,
where a step stops the machine, and the grounds of refusal. -/

namespace Sys2Proof.Machine

open Sys2Proof.Claims

/-! ### A transaction that fails (R35, R121, R122) -/

section
variable {s : State} {e : TransportError} (h : (currentTurn s).fault = some e)
include h

/-- A transaction that fails is recorded with its error and without bytes. -/
theorem issue_trace_fault (f : Frame) : (issue f s).trace = s.trace ++ [⟨f.subOps, [], some e⟩] := by
  rw [issue_trace, entryOf, replyTo_rx_of_fault f s e h, replyTo_error, h]

/-- The far end a transaction that fails leaves, from what it found. -/
theorem farEndAfterFault_replyTo (f : Frame) :
    farEndAfterFault s.params (foundCfg 0 s s.cfg) (replyTo f s).cfg f := by
  cases f
  case wreg a v =>
    intro b hb
    rw [replyTo_fault h]
    exact readReg_writeReg_other _ _ _ _ hb
  case reset trailing =>
    intro b
    rw [replyTo_fault h]
    exact readReg_faultedReset ..
  all_goals exact replyTo_cfg_of_keeping (fun _ => rfl) s

/-- A primitive whose transaction fails leaves the far end as that transaction does and has captured nothing. -/
theorem exec_primitive_fault {i : Instr} {ph : Phase} {fin : Finish} {t : State} (hs : s.seq = .idle)
    (he : s.params.exposePrimitives = true) (hbus : isPure i = false)
    (hpl : planOf s.params i = exposed s.params (.ok ⟨[ph], fin⟩)) (hex : exec i s = .next t) :
    farEndAfterFault s.params (foundCfg 0 s s.cfg) t.cfg (ph.frame s) ∧ t.rbyte = s.rbyte ∧ t.rxbuf = s.rxbuf := by
  have habort : exec i s = .next (raiseTransportFault e (issue (ph.frame s) s)) :=
    exec_firstFault (k := 0) hs hbus (hpl.trans (exposed_true _ he)) Nat.one_pos nofun h
  cases habort.symm.trans hex
  refine ⟨?_, issue_rbyte (ph.frame s) s, issue_rxbuf (ph.frame s) s⟩
  rw [raiseTransportFault_cfg, issue_cfg]
  exact farEndAfterFault_replyTo h _

end

/-! ### The transactions before the one that fails -/

/-- Each transaction uses up one of the environment's choices. -/
theorem afterPhases_choices (phs : List Phase) (s : State) :
    (afterPhases phs s).script = (spent phs.length s).script ∧
      (afterPhases phs s).draws = (spent phs.length s).draws := by
  induction phs using List.reverseRecOn with
  | nil => exact ⟨rfl, rfl⟩
  | append_singleton phs ph ih =>
    obtain ⟨hscript, hdraws⟩ := ih
    simp [afterPhases_append, afterPhases, spent_succ, consumeTurn_eq, hscript, hdraws]

/-! ### The model's own fault (log 20) -/

theorem exec_no_fault (i : Instr) (s : State) (r : Fault) : exec i s ≠ .fault r := by
  cases hp : isPure i with
  | true => rw [exec_of_pure i s hp]; exact present_no_fault
  | false => rw [exec_of_bus i s hp]; exact perform_no_fault

/-- A step stops the machine only where `SEQ` is behind the last transaction of its expansion. -/
theorem step_fault_inv {s : State} {r : Fault} (h : step s = .fault r) :
    ∃ i k pl, s.seq = .busy i k ∧ planOf s.params i = .ok pl ∧ pl.phases.length ≤ k := by
  unfold step at h
  split at h
  next i k hs =>
    unfold resume at h
    split at h
    next => cases h
    next pl hpl =>
      split at h
      next => cases h
      next hbeyond => exact ⟨i, k, pl, hs, hpl, List.getElem?_eq_none_iff.1 hbeyond⟩
  next hs =>
    split at h
    next => cases h
    next =>
      split at h
      next => exact absurd h (exec_no_fault _ _ r)
      next => cases h

/-! ### The grounds of refusal (R118) -/

/-- An operation with bus traffic that has no plan is refused. -/
theorem exec_bus_refused {i : Instr} {s : State} {r : Refusal} (hbus : isPure i = false) (hs : s.seq = .idle)
    (hpl : planOf s.params i = .error r) : exec i s = .refused r :=
  (exec_of_bus i s hbus).trans (perform_error hs hpl)

/-- Of an operation with bus traffic, an operand that is no variant of its field leaves no plan. -/
theorem planOf_notAVariant {p : Config.Params} {i : Instr} {x : Variant} (hbus : isPure i = false)
    (hi : variantOperand i = some x) (hx : enumEncode p x = none) : planOf p i = .error .notAVariant := by
  cases i
  case enumEncode => cases hbus
  case readChannel m =>
    cases hi
    simp [planOf, planReadChannel, checkedVariant_error hx]
  case setMux | setGain | setPgaBypass | setDataRate | setOperatingMode | setConversionMode | setTempSensorMode
      | setBurnoutCurrent | setVrefSelect | setFirFilter | setLowSideSwitch | setIdacCurrent | setIdac1Route
      | setIdac2Route | setDrdyMode =>
    cases hi
    exact typedSetter_error hx
  all_goals cases hi

/-- `ENUM_ENCODE` is the one pure function unit that takes a variant. -/
theorem eq_enumEncode_of_pure {i : Instr} {x : Variant} (hp : isPure i = true) (hi : variantOperand i = some x) :
    i = .enumEncode x := by
  cases i
  case enumEncode => cases hi; rfl
  case encode | extract | decode0 | decode1 | decode2 | decode3 | enumDecode | sdec => cases hi
  all_goals cases hp

/-- What needs exposure and is not exposed has no plan, whatever its operands. -/
theorem planOf_not_exposed {p : Config.Params} {i : Instr} (hbus : isPure i = false) (hi : i.needsExposure = true)
    (he : p.exposePrimitives = false) : planOf p i = .error .notExposed := by
  cases i
  case wreg | rreg | reset | start | sread | setFieldRaw => exact exposed_false _ he
  case encode | extract | decode0 | decode1 | decode2 | decode3 | enumEncode | enumDecode | sdec => cases hbus
  all_goals cases hi

section
variable {s : State} (hs : s.seq = .idle)
include hs

/-- R118 (7), D24. -/
theorem exec_not_exposed {i : Instr} (hi : i.needsExposure = true) (he : s.params.exposePrimitives = false) :
    exec i s = .refused .notExposed := by
  cases hp : isPure i with
  | true => exact (exec_of_pure i s hp).trans (present_not_exposed hs he)
  | false => exact exec_bus_refused hp hs (planOf_not_exposed hp hi he)

/-- R118 (3); a label whose code is not legal is no variant either (log 16). -/
theorem exec_notAVariant {i : Instr} {x : Variant} (he : i.needsExposure = true → s.params.exposePrimitives = true)
    (hi : variantOperand i = some x) (hx : enumEncode s.params x = none) : exec i s = .refused .notAVariant := by
  cases hp : isPure i with
  | true =>
    cases eq_enumEncode_of_pure hp hi
    exact exec_pure_refused hp hs (he rfl) (congrArg (Except.map _) (checkedVariant_error hx))
  | false => exact exec_bus_refused hp hs (planOf_notAVariant hp hi hx)

variable {f : Field} {c : Byte} (he : s.params.exposePrimitives = true)
include he

/-- R118 (2) of `ENCODE`. -/
theorem exec_encode_wide (hc : codeFits f c = false) (cur : Byte) :
    exec (.encode f cur c) s = .refused .codeTooWide :=
  exec_pure_refused rfl hs he (congrArg (Except.map _) (checkedCode_error hc))

/-- R118 (2) of `ENUM_DECODE`, `RESERVED0` among its fields (log 14). -/
theorem exec_enumDecode_wide (hc : codeFits f c = false) : exec (.enumDecode f c) s = .refused .codeTooWide :=
  exec_pure_refused rfl hs he (by simp [pureValue, enumDecodeValue, checkedCode_error hc])

/-- `RESERVED0` has no enumeration (R78, log 15). -/
theorem exec_enumDecode_reserved0 (hc : codeFits .reserved0 c = true) :
    exec (.enumDecode .reserved0 c) s = .refused .reservedField :=
  exec_pure_refused rfl hs he (by simp [pureValue, enumDecodeValue, checkedCode_ok hc, enumDecode])

/-- R118 (2) of `SET_FIELD_RAW`. -/
theorem exec_setFieldRaw_wide (hf : f ≠ .reserved0) (hc : codeFits f c = false) :
    exec (.setFieldRaw f c) s = .refused .codeTooWide :=
  exec_bus_refused rfl hs (by
    simp [planOf, planSetFieldRaw, exposed_true _ he, checkedField, Field.enumerated, hf, checkedCode_error hc])

/-- R118 (4), whatever the code (log 14). -/
theorem exec_setFieldRaw_reserved0 (c : Byte) : exec (.setFieldRaw .reserved0 c) s = .refused .reservedField :=
  exec_bus_refused rfl hs (exposed_true _ he)

omit he

/-- An exposed operation with an operand outside its type is refused by one of the names above. -/
theorem exec_refused_of_not_wellFormed {i : Instr} (he : i.needsExposure = true → s.params.exposePrimitives = true)
    (h : i.wellFormed s.params = false) : ∃ r, exec i s = .refused r := by
  cases i
  case encode f cur c => exact ⟨_, exec_encode_wide hs (he rfl) h cur⟩
  case enumDecode f c =>
    cases hc : codeFits f c with
    | false => exact ⟨_, exec_enumDecode_wide hs (he rfl) hc⟩
    | true =>
      obtain rfl : f = .reserved0 := by simpa [Instr.wellFormed, Field.enumerated, hc] using h
      exact ⟨_, exec_enumDecode_reserved0 hs (he rfl) hc⟩
  case setFieldRaw f c =>
    by_cases hf : f = .reserved0
    · subst hf
      exact ⟨_, exec_setFieldRaw_reserved0 hs (he rfl) c⟩
    · have hc : codeFits f c = false := by simpa [Instr.wellFormed, Field.enumerated, hf] using h
      exact ⟨_, exec_setFieldRaw_wide hs (he rfl) hf hc⟩
  case enumEncode | setMux | setGain | setPgaBypass | setDataRate | setOperatingMode | setConversionMode
      | setTempSensorMode | setBurnoutCurrent | setVrefSelect | setFirFilter | setLowSideSwitch | setIdacCurrent
      | setIdac1Route | setIdac2Route | setDrdyMode | readChannel =>
    exact ⟨_, exec_notAVariant hs he rfl (Option.isNone_iff_eq_none.1 (Option.isSome_eq_false_iff.1 h))⟩
  all_goals cases h

/-- An operation HOST may not present is refused (R118). -/
theorem exec_refused_of_not_invocable {i : Instr} (h : i.invocable s.params = false) : ∃ r, exec i s = .refused r := by
  by_cases he : i.needsExposure = true → s.params.exposePrimitives = true
  · refine exec_refused_of_not_wellFormed hs he ?_
    cases hn : i.needsExposure with
    | false => simpa [Instr.invocable, hn] using h
    | true => simpa [Instr.invocable, he hn] using h
  · obtain ⟨hn, he⟩ := Classical.not_imp.1 he
    exact ⟨_, exec_not_exposed hs hn (eq_false_of_ne_true he)⟩

end

end Sys2Proof.Machine
end

section
/-! The obligations about exceptions: the transport fault, refusals, and the model's own fault. -/

namespace Sys2Proof.Proofs

open Sys2Proof.Machine Sys2Proof.Safety Sys2Proof.Claims

/-- Settles O40: the operation aborts in the state behind its first `k` transactions, which are recorded without an
error and have used up `k` of the environment's choices. -/
theorem firstFaultAbortsTheOperation : Obligations.FirstFaultAbortsTheOperation := by
  intro i s k e hinv hs hk hok hfault
  have hbus := isPure_eq_false (Nat.zero_lt_of_lt hk)
  obtain ⟨pl, hpl⟩ := plan_of_invocable hinv hbus
  rw [← plan_length_eq hpl] at hk
  have hex := exec_firstFault hs hbus hpl hk hok hfault
  have hlen : (pl.phases.take k).length = k := List.length_take_of_le hk.le
  have hturn : turnAt 0 (afterPhases (pl.phases.take k) s) = turnAt k s := by rw [turnAt_afterPhases, hlen]; rfl
  obtain ⟨new, htrace, hnew, hnone⟩ := afterPhases_trace (phs := pl.phases.take k) (s := s) (by rwa [hlen])
  obtain ⟨hscript, hdraws⟩ := afterPhases_choices (pl.phases.take k) s
  rw [hlen] at hnew hscript hdraws
  have hlast := issue_trace_fault (s := afterPhases (pl.phases.take k) s) ((congrArg Turn.fault hturn).trans hfault)
    (pl.phases[k].frame (afterPhases (pl.phases.take k) s))
  rw [htrace] at hlast
  refine ⟨_, new, _, hex, hlast, hnew, hnone, rfl, rfl, rfl, rfl, rfl, ?_, ?_, ?_⟩
  · rw [raiseTransportFault_life, issue_life, afterPhases_life]
  · simp [spent_succ, hscript]
  · simp [spent_succ, consumeTurn_eq, hscript, hdraws]

/-- Settles O42: a primitive and a step inside an expansion both abort in the state behind the failed transaction, whose
far end is as R122 says. -/
theorem faultedTransactionFarEnd : Obligations.FaultedTransactionFarEnd := by
  constructor
  · intro s e hs he hfault
    refine ⟨fun a v t hex _ => ?_, fun a t hex => ?_, fun t hex _ => ?_, fun t hex => ?_, fun t hex _ => ?_⟩
    · exact (exec_primitive_fault (s := s) hfault hs he rfl rfl hex).1
    · obtain ⟨hcfg, hrbyte, _⟩ := exec_primitive_fault (s := s) hfault hs he rfl rfl hex
      exact ⟨hrbyte, fun _ => hcfg⟩
    · exact (exec_primitive_fault (s := s) hfault hs he rfl rfl hex).1
    · obtain ⟨hcfg, _, hrxbuf⟩ := exec_primitive_fault (s := s) hfault hs he rfl rfl hex
      exact ⟨hrxbuf, fun _ => hcfg⟩
    · exact (exec_primitive_fault (s := s) hfault hs he rfl rfl hex).1
  · intro s t op k e hs hfault hstep
    rcases step_next_cases hstep with ⟨i, j, pl, ph, _, _, _, rfl⟩ | ⟨hidle, _⟩ | ⟨hidle, _⟩
    · refine ⟨ph.frame s, ?_, fun _ => ?_⟩
      · rw [advance_fault i pl j ph s e hfault]
        exact issue_trace_fault hfault _
      · rw [advance_cfg]
        exact farEndAfterFault_replyTo hfault _
    · cases hs.symm.trans hidle
    · cases hs.symm.trans hidle

/-- Settles O44: each ground of refusal on its own, and an operation that is not invocable has one of them. -/
theorem operandsOutsideTheirTypesAreRefused : Obligations.OperandsOutsideTheirTypesAreRefused := by
  intro s hs
  have wide : ∀ {f c}, 2 ^ fieldWidth f ≤ c.toNat → codeFits f c = false := fun h =>
    decide_eq_false (Nat.not_lt.2 h)
  exact ⟨fun _ cur _ he hc => exec_encode_wide hs he (wide hc) cur,
    fun _ _ he hc => exec_enumDecode_wide hs he (wide hc),
    fun _ _ he hf hc => exec_setFieldRaw_wide hs he hf (wide hc),
    fun c he => exec_setFieldRaw_reserved0 hs he c,
    fun _ _ he hi hx => exec_notAVariant hs he hi hx,
    fun _ _ hx => enumEncode_fallback hx,
    fun he _ hi => exec_not_exposed hs hi he,
    fun _ hi => exec_refused_of_not_invocable hs hi⟩

/-- Settles O46: an operation presents a value, runs or is refused; a step that stops the machine has found `SEQ` where
R21 does not let it be. -/
theorem onlyAnImpossibleSequencerPositionFaults : Obligations.OnlyAnImpossibleSequencerPositionFaults := by
  refine ⟨exec_no_fault, fun s r h hrange => ?_⟩
  obtain ⟨i, k, pl, hs, hpl, hbeyond⟩ := step_fault_inv h
  obtain ⟨⟨pl', hpl', hk⟩, _⟩ := (seqInRange_busy hs).1 hrange
  cases hpl.symm.trans hpl'
  omega

end Sys2Proof.Proofs
end

section
/-! `ResetSettled` of the trace that operations leave (R136): what a run of commands records, and the first transaction
of an operation. -/

namespace Sys2Proof.Machine

open Sys2Proof.Safety Sys2Proof.Claims

/-! ### What a run of commands records -/

/-- A run of commands records their sub-operations in order, all of them where it completes. -/
theorem runToEnd_commands_trace (fin : Finish) (fs : List Frame) (s : State) :
    let t := runToEnd fin (fs.map .command) s
    ∃ new rest, t.trace = s.trace ++ new ∧ fs.flatMap Frame.subOps = subOpsOf new ++ rest ∧
      (t.status = .ok → rest = []) := by
  induction fs generalizing s with
  | nil => exact ⟨[], [], by simp [runToEnd], rfl, fun _ => rfl⟩
  | cons f fs ih =>
    rw [List.map_cons]
    cases h : (currentTurn s).fault with
    | some e =>
      rw [runToEnd_fault h]
      exact ⟨_, fs.flatMap Frame.subOps, issue_trace f s, by simp [subOpsOf, entryOf], nofun⟩
    | none =>
      rw [runToEnd_ok h]
      obtain ⟨new, rest, htrace, hsub, hok⟩ := ih (afterPhase (.command f) s)
      refine ⟨entryOf f (replyTo f s) :: new, rest, ?_, ?_, hok⟩
      · rw [htrace, afterPhase_trace, List.append_assoc]; rfl
      · simp [subOpsOf, entryOf, hsub]

/-- The transactions of `BEGIN` are settled among themselves and leave no reset waiting (R136). -/
theorem settledOnward_beginFrames (pm : Config.Placement) :
    settledOnward ((beginFrames pm).flatMap Frame.subOps ++ [.read 1]) = true := by
  cases pm <;> decide

/-! ### The first transaction of an operation -/

/-- No transaction but the post-reset wait of `BEGIN` waits long enough before it touches the bus. -/
theorem settledFrom_subOps {f : Frame} (hf : f ≠ .postResetWait) (xs : List SubOp) :
    settledFrom (f.subOps ++ xs) = false := by
  cases f
  case postResetWait => exact absurd rfl hf
  case reset trailing => cases trailing <;> rfl
  all_goals rfl

/-- Behind the reset command everything depends on what comes next. -/
theorem settledOnward_reset (xs : List SubOp) :
    settledOnward ((Frame.reset false).subOps ++ xs) = (settledFrom xs && settledOnward xs) := rfl

/-- No expansion begins with the post-reset wait. -/
theorem firstPhase_of_plan {p : Config.Params} {i : Instr} {pl : Plan} (hpl : planOf p i = .ok pl)
    (hbus : isPure i = false) : ∃ ph rest, pl.phases = ph :: rest ∧ ∀ s, ph.frame s ≠ .postResetWait := by
  cases planShape_of_planOf hpl with
  | pureUnit hp => rw [hbus] at hp; cases hp
  | beginInit => cases p.placement <;> exact ⟨_, _, rfl, fun _ => nofun⟩
  | _ => exact ⟨_, _, rfl, fun _ => nofun⟩

/-- A run ends behind its first transaction or goes on from there. -/
theorem runPhases_cons_cases (i : Instr) (pl : Plan) (k : Nat) (ph : Phase) (rest : List Phase) (s : State) :
    runPhases i pl k (ph :: rest) s = advance i pl k ph s ∨
      runPhases i pl k (ph :: rest) s = runPhases i pl (k + 1) rest (advance i pl k ph s) := by
  simp only [runPhases]
  split
  · exact .inl rfl
  · exact .inr rfl

/-- An operation with bus traffic records a transaction, and the first is not the post-reset wait. -/
theorem exec_first_entry {i : Instr} {s t : State} (h : exec i s = .next t) (hpos : 0 < opLength s.params i) :
    ∃ f x more, f ≠ .postResetWait ∧ x.subOps = Frame.subOps f ∧ t.trace = s.trace ++ x :: more := by
  have hbus := isPure_eq_false hpos
  obtain ⟨_, ⟨hp, _⟩ | ⟨_, pl, hpl, rfl⟩⟩ := exec_next_cases h
  · rw [hbus] at hp; cases hp
  obtain ⟨ph, rest, hphases, hframe⟩ := firstPhase_of_plan hpl hbus
  have hfirst := advance_trace i pl 0 ph (invoke i s)
  obtain ⟨more, hmore⟩ := runPhases_trace i pl 1 rest (advance i pl 0 ph (invoke i s))
  rw [hphases]
  rcases runPhases_cons_cases i pl 0 ph rest (invoke i s) with hrun | hrun
  · exact ⟨_, _, [], hframe _, rfl, by rw [hrun]; exact hfirst⟩
  · exact ⟨_, _, more, hframe _, rfl, by rw [hrun, hmore, hfirst, List.append_assoc]; rfl⟩

/-- A directly invoked `RESET` records the one transaction, whether it completes or aborts (R86). -/
theorem exec_reset_entry {s t : State} (h : exec .reset s = .next t) :
    ∃ x, x.subOps = (Frame.reset false).subOps ∧ t.trace = s.trace ++ [x] := by
  obtain ⟨_, ⟨⟨⟩, _⟩ | ⟨_, pl, hpl, rfl⟩⟩ := exec_next_cases h
  cases (exposed_ok hpl).2
  refine ⟨entryOf (.reset false) (replyTo (.reset false) (invoke .reset s)), rfl, ?_⟩
  rcases runPhases_cons_cases .reset _ 0 (.command (.reset false)) [] (invoke .reset s) with hrun | hrun <;>
    exact (congrArg State.trace hrun).trans (advance_trace ..)

end Sys2Proof.Machine

namespace Sys2Proof.Proofs

open Sys2Proof.Machine Sys2Proof.Safety Sys2Proof.Claims

/-- Settles O54: neither an operation in progress nor one presented. -/
theorem idleEngineWaitsForHost : Obligations.IdleEngineWaitsForHost := by
  intro s hs hc
  simp only [step, hs, hc]

/-- Settles O57: what `BEGIN` records is the beginning of its whole expansion, which leaves no reset waiting; completed,
it is all of it. -/
theorem beginKeepsResetSettled : Obligations.BeginKeepsResetSettled := by
  intro s t hwaited h
  have hidle := (exec_next_cases h).1
  rw [exec_eq_runToEnd hidle rfl (planOf_beginInit_frames s.params)] at h
  cases h
  obtain ⟨new, rest, htrace, hsub, hok⟩ := runToEnd_commands_trace .begun (beginFrames s.params.placement) s
  have hall := settledOnward_beginFrames s.params.placement
  rw [hsub] at hall
  rw [htrace]
  refine ⟨resetSettled_append hwaited (settledOnward_left (settledOnward_left hall)), fun hstatus => ?_⟩
  rw [hok hstatus, List.append_nil] at hall
  exact resetWaitedOut_append hwaited hall

/-- Settles O58: behind the reset command the next transaction touches the bus before it has waited long enough. -/
theorem directResetThenTrafficIsUnsettled : Obligations.DirectResetThenTrafficIsUnsettled := by
  intro i s t u hreset hpos h later
  obtain ⟨x, hx, ht⟩ := exec_reset_entry hreset
  rw [← (exec_params_cmd hreset).1] at hpos
  obtain ⟨f, y, new, hf, hy, hu⟩ := exec_first_entry h hpos
  have hsplit : u.trace ++ later = s.trace ++ (x :: y :: (new ++ later)) := by rw [hu, ht]; simp
  have hsub : subOpsOf (x :: y :: (new ++ later)) =
      (Frame.reset false).subOps ++ (f.subOps ++ subOpsOf (new ++ later)) := by
    simp only [subOpsOf, List.flatMap_cons, hx, hy, normalForm_subOps]
  rw [hsplit, Bool.eq_false_iff]
  intro hsettled
  have hlast := resetSettled_right hsettled
  rw [resetSettled, hsub, settledOnward_reset, settledFrom_subOps hf] at hlast
  cases hlast

end Sys2Proof.Proofs
end

section
/-! An operation of several transactions at its first fault: the state it leaves, said in the environment's choices as
the operation found them (R121, R122, R139). -/

namespace Sys2Proof.Machine

open Sys2Proof.Claims

/-- What the `n`-th coming transaction from `s` leaves where it fails, issued from `u`: the far end as R122 says and one
entry of the trace. -/
def afterFault (n : Nat) (s : State) (e : TransportError) (f : Frame) (u : State) : State :=
  let r := faultedReply s.params (turnAt n s) f (foundCfg n s u.cfg) u.samples e
  { u with cfg := r.cfg, samples := r.samples, trace := u.trace ++ [⟨f.subOps, [], some e⟩] }

/-- An abort, `SEQ` apart, writes `STATUS` and the response. -/
theorem raiseTransportFault_of_idle {s : State} (hs : s.seq = .idle) (e : TransportError) :
    raiseTransportFault e s = { s with status := .fault e, response := some (.err e) } := by
  rw [raiseTransportFault, ← hs]; rfl

/-- A transaction that fails and neither writes nor resets leaves `CFG` as it found it (R122). -/
theorem afterFault_cfg_of_keeping {f : Frame} (hf : ∀ a, frameMayChange a f = false) (n : Nat) (s u : State)
    (e : TransportError) : (afterFault n s e f u).cfg = foundCfg n s u.cfg := by
  cases f
  case wreg a v => exact absurd (hf a) (by simp [frameMayChange])
  case reset => cases hf 0
  all_goals rfl

theorem issue_fault_withTurnsOf {n : Nat} {s : State} {e : TransportError} (h : (turnAt n s).fault = some e)
    (u : State) (f : Frame) : issue f (withTurnsOf n s u) = withTurnsOf (n + 1) s (afterFault n s e f u) := by
  have hturn : currentTurn (withTurnsOf n s u) = turnAt n s := turnAt_withTurnsOf n s u
  have herr : (currentTurn (withTurnsOf n s u)).fault = some e := (congrArg Turn.fault hturn).trans h
  have hreply := replyTo_fault herr f
  rw [hturn, foundCfg_withTurnsOf] at hreply
  rw [issue, entryOf, replyTo_rx_of_fault f _ e herr, replyTo_error, herr, hreply, consumeTurn_withTurnsOf]
  rfl

/-- An operation whose transaction `k` is the first that fails aborts in the state its earlier transactions lead to. -/
theorem exec_fault_of_afterPhases {i : Instr} {pl : Plan} {s u : State} {k : Nat} {e : TransportError}
    (hs : s.seq = .idle) (hbus : isPure i = false) (hpl : planOf s.params i = .ok pl) (hk : k < pl.phases.length)
    (hok : linkOk k s) (hfault : (turnAt k s).fault = some e)
    (hu : afterPhases (pl.phases.take k) (withTurnsOf 0 s s) = withTurnsOf k s u) (hseq : u.seq = .idle) :
    exec i s = .next { withTurnsOf (k + 1) s (afterFault k s e (pl.phases[k].frame u) u) with
      status := .fault e, response := some (.err e) } := by
  have hframe : pl.phases[k].frame (withTurnsOf k s u) = pl.phases[k].frame u := by cases pl.phases[k] <;> rfl
  have hidle : (withTurnsOf (k + 1) s (afterFault k s e (pl.phases[k].frame u) u)).seq = .idle := hseq
  have hrun := exec_firstFault hs hbus hpl hk hok hfault
  have hself : withTurnsOf 0 s s = s := rfl
  rw [hself] at hu
  rw [hrun, hu, hframe, issue_fault_withTurnsOf hfault, raiseTransportFault_of_idle hidle]

/-! ### The reads of `DUMP_REGISTERS` -/

/-- The reads of `DUMP_REGISTERS` go in address order (R111). -/
def dumpPhases : List Phase := [.readDump 0, .readDump 1, .readDump 2, .readDump 3]

theorem planOf_dumpRegisters (p : Config.Params) : planOf p .dumpRegisters = .ok ⟨dumpPhases, .dump⟩ := rfl

theorem dumpPhases_take_succ {k : Nat} (hk : k < 4) :
    dumpPhases.take (k + 1) = dumpPhases.take k ++ [.readDump (BitVec.ofNat 2 k)] := by
  interval_cases k <;> rfl

theorem dumpPhases_getElem {k : Nat} (hk : k < dumpPhases.length) :
    dumpPhases[k] = .readDump (BitVec.ofNat 2 k) := by
  have hk' : k < 4 := hk
  interval_cases k <;> rfl

/-- What is known behind the first `k` reads of `DUMP_REGISTERS`, answered with `Ok`. -/
structure BehindDumpReads (k : Nat) (s u : State) : Prop where
  seq : u.seq = s.seq
  rbyte : u.rbyte = s.rbyte
  trace : u.trace.length = s.trace.length + k
  cfg : u.cfg = cfgAfterExternals k s
  dump : ∀ a : RegAddr, k ≤ a.toNat → readReg u.dump a = readReg s.dump a

/-- Each read fills its own byte of the dump and leaves `CFG` as it found it (R52, R111). -/
theorem afterPhases_dumpReads {k : Nat} {s : State} (hk : k ≤ 4) (hok : linkOk k s) :
    ∃ u, afterPhases (dumpPhases.take k) (withTurnsOf 0 s s) = withTurnsOf k s u ∧ BehindDumpReads k s u := by
  induction k with
  | zero => exact ⟨s, rfl, rfl, rfl, rfl, rfl, fun _ _ => rfl⟩
  | succ k ih =>
    obtain ⟨u, hu, behind⟩ := ih (Nat.le_of_succ_le hk) fun j hj => hok j (Nat.lt_succ_of_lt hj)
    have hnext := (congrArg (afterPhase (.readDump (BitVec.ofNat 2 k))) hu).trans
      (readDump_withTurnsOf (hok k k.lt_succ_self) u _)
    rw [dumpPhases_take_succ hk, afterPhases_append]
    refine ⟨_, hnext, behind.seq, behind.rbyte, ?_, congrArg (foundCfg k s) behind.cfg, fun a ha => ?_⟩
    · simp [behind.trace, Nat.add_assoc]
    · have hne : a ≠ BitVec.ofNat 2 k := by
        rintro rfl
        have hle : (BitVec.ofNat 2 k).toNat ≤ k := BitVec.toNat_ofNat k 2 ▸ Nat.mod_le k (2 ^ 2)
        omega
      exact (readReg_writeReg_other _ _ _ _ hne).trans (behind.dump a (Nat.le_of_succ_le ha))

/-! ### The transactions of `READ_CHANNEL` before its sample -/

/-- `CFG` behind the read-modify-write of the mux field under the responder (R91, R110). -/
def muxWritten (s : State) (c : Byte) : Regs :=
  let found := foundCfg 0 s s.cfg
  writeReg (foundCfg 1 s found) 0 (encodeField .mux (readReg found 0) c)

/-- Under the responder the read-modify-write leaves the mux written, and every other field and register as found. -/
theorem afterPhases_muxWrite {s : State} (c : Byte) (hl : s.params.link = .responder) (hok : linkOk 2 s) :
    ∃ u, afterPhases (readModifyWrite .mux c) (withTurnsOf 0 s s) = withTurnsOf 2 s u ∧ u.seq = s.seq ∧
      u.trace.length = s.trace.length + 2 ∧ u.cfg = muxWritten s c := by
  have hread := readModify_withTurnsOf (hok 0 Nat.two_pos) s .mux c
  have hrun := (congrArg (afterPhase (.writeBack 0)) hread).trans (writeBack_withTurnsOf (hok 1 Nat.one_lt_two) _ 0)
  refine ⟨_, hrun, rfl, by simp, ?_⟩
  simp only [linkWrites, linkReads, hl]
  rfl

/-- Behind the read-modify-write, and behind the start too, the transaction that comes next finds the mux written, if
EXTERNAL has been quiet since. -/
theorem afterPhases_readChannel {k : Nat} {s : State} (c : Byte) (hl : s.params.link = .responder)
    (hk : k = 2 ∨ k = 3) (hok : linkOk k s) (hq : ∀ j, 2 ≤ j → j ≤ k → quietAt j s) :
    ∃ u, afterPhases ((readModifyWrite .mux c ++ singleShotPhases).take k) (withTurnsOf 0 s s) = withTurnsOf k s u ∧
      u.seq = s.seq ∧ u.trace.length = s.trace.length + k ∧ foundCfg k s u.cfg = muxWritten s c := by
  obtain ⟨u, hu, hseq, htrace, hcfg⟩ := afterPhases_muxWrite c hl fun j hj => hok j (by omega)
  have hquiet2 := Proofs.foundCfg_of_quiet (hq 2 le_rfl (by omega))
  rcases hk with rfl | rfl
  · exact ⟨u, hu, hseq, htrace, (hquiet2 _).trans hcfg⟩
  · have hstart := (congrArg (afterPhase (.command .start)) hu).trans (start_withTurnsOf (hok 2 (by decide)) _)
    refine ⟨_, hstart, hseq, by simp [htrace], ?_⟩
    rw [Proofs.foundCfg_of_quiet (hq 3 (by decide) le_rfl)]
    exact (hquiet2 _).trans hcfg

end Sys2Proof.Machine

namespace Sys2Proof.Proofs

open Sys2Proof.Machine Sys2Proof.Safety Sys2Proof.Claims

/-- A setter that fails at its read: the first clause of O59. -/
theorem setter_faults_at_read {s : State} {i : Instr} {f : Field} {c : Byte} {e : TransportError}
    (hi : setterTarget s.params i = some (f, c)) (hs : s.seq = .idle) (hfault : (turnAt 0 s).fault = some e) :
    exec i s = .next { spent 1 s with
      status := .fault e, response := some (.err e), trace := s.trace ++ [failed (readEntry (fieldReg f) 0) e]
      cfg := foundCfg 0 s s.cfg } := by
  have hfirst : 0 < (readModifyWrite f c).length := Nat.two_pos
  rw [exec_fault_of_afterPhases hs (isPure_setter hi) (planOf_setter hi) hfirst (nofun : linkOk 0 s) hfault rfl hs,
    ← withTurnsOf_self]
  rfl

/-- A setter that fails at its write: the second clause of O59. -/
theorem setter_faults_at_write {s : State} {i : Instr} {f : Field} {c : Byte} {e : TransportError}
    (hi : setterTarget s.params i = some (f, c)) (hs : s.seq = .idle) (hok : linkOk 1 s)
    (hfault : (turnAt 1 s).fault = some e) :
    let a := fieldReg f
    let found := foundCfg 0 s s.cfg
    let d := linkReads 0 s found a
    let v := encodeField f d c
    exec i s = .next { spent 2 s with
      status := .fault e, response := some (.err e), tmp := v
      trace := s.trace ++ [readEntry a d, failed (writeEntry a v) e]
      cfg := writeReg (foundCfg 1 s found) a (readReg (turnAt 1 s).far a) } := by
  have hread := readModify_withTurnsOf (hok 0 Nat.one_pos) s f c
  intro a found d v
  have hlast : 1 < (readModifyWrite f c).length := Nat.one_lt_two
  rw [exec_fault_of_afterPhases hs (isPure_setter hi) (planOf_setter hi) hlast hok hfault hread hs,
    ← withTurnsOf_self]
  simp only [afterFault, List.append_assoc]
  rfl

/-- A `READ_CHANNEL` that fails behind its read-modify-write leaves the mux written. -/
theorem readChannel_faults_behind_mux {s : State} {m : Mux} {c : Byte} {k : Nat} {e : TransportError}
    (hc : enumEncode s.params (.mux m) = some c) (hl : s.params.link = .responder) (hs : s.seq = .idle)
    (hk : k = 2 ∨ k = 3) (hok : linkOk k s) (hfault : (turnAt k s).fault = some e)
    (hq : ∀ j, 2 ≤ j → j ≤ k → quietAt j s) :
    ∃ t, exec (.readChannel m) s = .next t ∧ t.status = .fault e ∧ t.response = some (.err e) ∧
      t.trace.length = s.trace.length + k + 1 ∧ t.cfg = muxWritten s c := by
  obtain ⟨u, hu, hseq, htrace, hcfg⟩ := afterPhases_readChannel c hl hk hok hq
  have hlen : k < (readModifyWrite .mux c ++ singleShotPhases).length := show k < 4 by omega
  have hkeeps : ∀ a, frameMayChange a ((readModifyWrite .mux c ++ singleShotPhases)[k].frame u) = false := by
    rcases hk with rfl | rfl <;> exact fun _ => rfl
  have hex := exec_fault_of_afterPhases hs rfl (planOf_readChannel hc) hlen hok hfault hu (hseq.trans hs)
  refine ⟨_, hex, rfl, rfl, ?_, (afterFault_cfg_of_keeping hkeeps k s u e).trans hcfg⟩
  simp [withTurnsOf, afterFault, htrace]

/-- Settles O59: each operation aborts in the state its earlier transactions lead to, and the one that fails changes at
most the register it writes. -/
theorem partialFailureIsNotRolledBack : Obligations.PartialFailureIsNotRolledBack := by
  refine ⟨fun s i f c e hi hs => ⟨fun hfault => ?_, fun hok hfault => ?_⟩, ?_, fun s e hs hfault => ?_,
    fun s e hs hok hfault => ?_, fun s k e hs hk hok hfault => ?_⟩
  · exact ⟨_, setter_faults_at_read hi hs hfault, fun _ => rfl⟩
  · exact ⟨_, _, setter_faults_at_write hi hs hok hfault,
      fun _ => ⟨rfl, fun b hb => readReg_writeReg_other _ _ _ _ hb⟩⟩
  · intro s t m c k e hc hl hs hk hok hfault hq hex _
    obtain ⟨t', hex', hstatus, hresponse, htrace, hcfg⟩ := readChannel_faults_behind_mux hc hl hs hk hok hfault hq
    cases hex'.symm.trans hex
    have hfits := fits_of_legal (legal_of_enumEncode hc).1
    rw [hcfg, muxWritten, readReg_writeReg_same]
    exact ⟨hstatus, hresponse, htrace, extractField_encodeField hfits,
      fun g hg hreg => extractField_encodeField_other hfits hg hreg, fun a ha => readReg_writeReg_other _ _ _ _ ha⟩
  · have hex := exec_fault_of_afterPhases (i := .readSingleShot) hs rfl rfl Nat.two_pos (nofun : linkOk 0 s) hfault
      rfl hs
    rw [hex, ← withTurnsOf_self]
    exact ⟨_, rfl, fun _ => rfl⟩
  · have hstart := start_withTurnsOf (hok 0 Nat.one_pos) s
    have hex := exec_fault_of_afterPhases (i := .readSingleShot) hs rfl rfl Nat.one_lt_two hok hfault hstart hs
    exact ⟨_, hex, rfl, rfl, List.append_assoc .., rfl, rfl, fun _ => rfl⟩
  · obtain ⟨u, hu, behind⟩ := afterPhases_dumpReads hk.le hok
    have hex := exec_fault_of_afterPhases hs rfl (planOf_dumpRegisters s.params) hk hok hfault hu
      (behind.seq.trans hs)
    rw [dumpPhases_getElem hk] at hex
    refine ⟨_, hex, rfl, rfl, ?_, behind.rbyte, behind.dump, fun _ => congrArg (foundCfg k s) behind.cfg⟩
    simp [withTurnsOf, afterFault, behind.trace, Nat.add_assoc]

end Sys2Proof.Proofs
end
